-- ==== Sys2Proof/Word.lean ====
section
/-! DEFINITION. The word types of KPC (00_scope.md R6): bytes, the 16-bit CRC and address word, the 4-bit nibble. All values are unsigned (R8). -/

namespace Sys2Proof

/-- A data byte or character code: 8 bits (00_scope.md R6). -/
abbrev Byte := BitVec 8

/-- The CRC register, the CRC field and the ZAT offset and address: 16 bits (00_scope.md R6). -/
abbrev Word16 := BitVec 16

/-- Half a byte: the value of one hex digit (00_scope.md R12). -/
abbrev Nibble := BitVec 4

end Sys2Proof
end

