-- ==== Sys2Proof/Config.lean ====
section
/-! DEFINITION. What an implementation of KPC fixes: the one open parameter P_CRC_BASE (00_scope.md R6, R7). The spec leaves no value free, so there is no opaque constant here. -/

namespace Sys2Proof

/-- The two readings of the CRC's base algorithm (00_scope.md R6, 90_conflicts.md C1). -/
inductive CrcBase where
  /-- The normative default: CRC-16/ARC, reflected (40_crc.md R78). -/
  | arcReflected
  /-- The literal reading "no input/output reflection" (40_crc.md R79). -/
  | literalUnreflected
  deriving DecidableEq, Repr

/-- The parameters of one machine. No step changes them (log 1). -/
structure Config where
  /-- P_CRC_BASE; a model "defaults to ARC_REFLECTED" (00_scope.md R7). -/
  crcBase : CrcBase := .arcReflected
  deriving DecidableEq, Repr

end Sys2Proof
end

