-- ==== Sys2Proof/Syntax.lean ====
section
/-! DEFINITION. The operations of KPC, one constructor per row of spec/opcode_table.json (30_encoding.md R72), the command vectors that carry them (R55), one cycle's inputs (00_scope.md R18) and the lines of a program (R67). -/

namespace Sys2Proof

/-- The four units of KPC, each with a port of its own (00_scope.md R2). -/
inductive UnitId where
  | crc
  | fenc
  | fdec
  | zat
  deriving DecidableEq, Repr

/-- One operation of one unit (00_scope.md R16). An operand stands only where the encoding gives the operation
a field: the ignored (`x`) bits are no part of it (30_encoding.md R64, log 15). -/
inductive Instr where
  /-- `crc.nop`, 40_crc.md R76. -/
  | crcNop
  /-- `crc.init`, 40_crc.md R77. -/
  | crcInit
  /-- `crc.upd B`, 40_crc.md R78 and R79. -/
  | crcUpd (din : Byte)
  /-- Reserved CRC op code 0b11, 40_crc.md R80. -/
  | crcRsvd3
  /-- `fenc.nop`, 41_frame_encoder.md R97. -/
  | fencNop
  /-- `fenc.tgt C`, 41_frame_encoder.md R98. -/
  | fencTgt (din : Byte)
  /-- `fenc.open`, 41_frame_encoder.md R99. -/
  | fencOpen
  /-- `fenc.hex B`, 41_frame_encoder.md R100. -/
  | fencHex (din : Byte)
  /-- `fenc.close`, 41_frame_encoder.md R101. -/
  | fencClose
  /-- `fenc.abort`, 41_frame_encoder.md R102. -/
  | fencAbort
  /-- Reserved FENC op code 0b110, 41_frame_encoder.md R104. -/
  | fencRsvd6
  /-- Reserved FENC op code 0b111, 41_frame_encoder.md R104. -/
  | fencRsvd7
  /-- `fdec.nop`, 42_frame_decoder.md R116. -/
  | fdecNop
  /-- `fdec.start`, 42_frame_decoder.md R117. -/
  | fdecStart
  /-- `fdec.chr C`, 42_frame_decoder.md R119 to R122. -/
  | fdecChr (din : Byte)
  /-- Reserved FDEC op code 0b11, 42_frame_decoder.md R128. -/
  | fdecRsvd3
  /-- `zat Z, S, O` (ZAT.CALC), 43_address_translator.md R141. -/
  | zat (zone slot : Byte) (offset : Word16)
  deriving DecidableEq, Repr

/-- The value of one port's vector: the port and as many bits as it has (30_encoding.md R55). -/
inductive PortWord where
  /-- `crc_cmd`, 10 bits (R56). -/
  | crc (v : BitVec 10)
  /-- `fenc_cmd`, 11 bits (R58). -/
  | fenc (v : BitVec 11)
  /-- `fdec_cmd`, 10 bits (R60). -/
  | fdec (v : BitVec 10)
  /-- `zat_in`, 32 bits (R62). -/
  | zat (v : BitVec 32)
  deriving DecidableEq, Repr

/-- One cycle's inputs, `in` of 00_scope.md R18. `zat` is `none` on a line that does not name `zat`: its inputs are
then whatever the host drives and its outputs are no part of the line's observation (30_encoding.md R70, log 5). -/
structure CycleIn where
  rst  : Bool
  crc  : BitVec 10
  fenc : BitVec 11
  fdec : BitVec 10
  zat  : Option (BitVec 32)
  deriving DecidableEq, Repr

/-- One operation as the assembler writes it (30_encoding.md R68): by its mnemonic, or as `.raw port, value`. -/
inductive AsmOp where
  | op (i : Instr)
  | raw (w : PortWord)
  deriving DecidableEq, Repr

/-- A line of a program: the word `rst`, or zero or more operations that share a cycle (30_encoding.md R67). -/
inductive Line where
  | rst
  | ops (l : List AsmOp)
  deriving DecidableEq, Repr

end Sys2Proof
end

