-- ==== Sys2Proof/WellFormed.lean ====
section
/-! DEFINITION. Well-formedness. An operation's operands have their fields' widths by type and every vector decodes (30_encoding.md R65), so every `Instr` is well formed as it stands; what the spec checks is the LINE an operation stands in: its operations are for different units (R67), a reserved op code has no mnemonic, and `.raw` names a sequential unit (R68). -/

namespace Sys2Proof

/-- The unit an operation is for (30_encoding.md R57, R59, R61, R62). -/
def Instr.unit : Instr → UnitId
  | .crcNop => .crc
  | .crcInit => .crc
  | .crcUpd _ => .crc
  | .crcRsvd3 => .crc
  | .fencNop => .fenc
  | .fencTgt _ => .fenc
  | .fencOpen => .fenc
  | .fencHex _ => .fenc
  | .fencClose => .fenc
  | .fencAbort => .fenc
  | .fencRsvd6 => .fenc
  | .fencRsvd7 => .fenc
  | .fdecNop => .fdec
  | .fdecStart => .fdec
  | .fdecChr _ => .fdec
  | .fdecRsvd3 => .fdec
  | .zat _ _ _ => .zat

/-- The port a vector belongs to. -/
def PortWord.unit : PortWord → UnitId
  | .crc _ => .crc
  | .fenc _ => .fenc
  | .fdec _ => .fdec
  | .zat _ => .zat

/-- The reserved op codes: CRC 0b11, FENC 0b110 and 0b111, FDEC 0b11 (30_encoding.md R65). -/
def Instr.isReserved : Instr → Bool
  | .crcNop => false
  | .crcInit => false
  | .crcUpd _ => false
  | .crcRsvd3 => true
  | .fencNop => false
  | .fencTgt _ => false
  | .fencOpen => false
  | .fencHex _ => false
  | .fencClose => false
  | .fencAbort => false
  | .fencRsvd6 => true
  | .fencRsvd7 => true
  | .fdecNop => false
  | .fdecStart => false
  | .fdecChr _ => false
  | .fdecRsvd3 => true
  | .zat _ _ _ => false

/-- The unit a line's operation is for. -/
def AsmOp.unit : AsmOp → UnitId
  | .op i => i.unit
  | .raw w => w.unit

/-- Whether the assembler can write the operation: a reserved op code only as `.raw`, and `.raw` only for crc, fenc
and fdec (30_encoding.md R68). -/
def AsmOp.wellFormed : AsmOp → Bool
  | .op i => !i.isReserved
  | .raw w => w.unit != .zat

/-- "each for a different unit" (30_encoding.md R67). -/
def distinctUnits : List AsmOp → Bool
  | [] => true
  | o :: os => os.all (fun p => p.unit != o.unit) && distinctUnits os

/-- A line the assembler accepts (30_encoding.md R67, R68). -/
def Line.wellFormed : Line → Bool
  | .rst => true
  | .ops l => l.all AsmOp.wellFormed && distinctUnits l

end Sys2Proof
end

