-- ==== Sys2Proof/Decode.lean ====
section
/-! DEFINITION. The decoder of each port's vector (30_encoding.md R55 to R66), the encoder (R68), and the opcode table's words as the host numbers them. -/

namespace Sys2Proof

/-- `din[7:0]` of a command vector (30_encoding.md R56, R58, R60). -/
def dinOf {n : Nat} (v : BitVec n) : Byte := v.extractLsb' 0 8

/-- The CRC op map (30_encoding.md R57): the op code alone selects the operation (R64). -/
def decodeCrc (v : BitVec 10) : Instr :=
  let op : BitVec 2 := v.extractLsb' 8 2
  if op = 0b00#2 then .crcNop
  else if op = 0b01#2 then .crcInit
  else if op = 0b10#2 then .crcUpd (dinOf v)
  else .crcRsvd3

/-- The FENC op map (30_encoding.md R59). -/
def decodeFenc (v : BitVec 11) : Instr :=
  let op : BitVec 3 := v.extractLsb' 8 3
  if op = 0b000#3 then .fencNop
  else if op = 0b001#3 then .fencTgt (dinOf v)
  else if op = 0b010#3 then .fencOpen
  else if op = 0b011#3 then .fencHex (dinOf v)
  else if op = 0b100#3 then .fencClose
  else if op = 0b101#3 then .fencAbort
  else if op = 0b110#3 then .fencRsvd6
  else .fencRsvd7

/-- The FDEC op map (30_encoding.md R61). -/
def decodeFdec (v : BitVec 10) : Instr :=
  let op : BitVec 2 := v.extractLsb' 8 2
  if op = 0b00#2 then .fdecNop
  else if op = 0b01#2 then .fdecStart
  else if op = 0b10#2 then .fdecChr (dinOf v)
  else .fdecRsvd3

/-- The ZAT input vector (30_encoding.md R62): no op field, every value is the one operation. -/
def decodeZat (v : BitVec 32) : Instr :=
  .zat (v.extractLsb' 24 8) (v.extractLsb' 16 8) (v.extractLsb' 0 16)

/-- The operation a port's vector stands for. Total: "Every value of every vector decodes to exactly one row"
(30_encoding.md R65). -/
def decode : PortWord → Instr
  | .crc v => decodeCrc v
  | .fenc v => decodeFenc v
  | .fdec v => decodeFdec v
  | .zat v => decodeZat v

/-- Why a number is no vector of a port. -/
inductive DecodeError where
  /-- The number has a bit above the port's vector (30_encoding.md R55 gives the widths). -/
  | tooWide (port : UnitId)
  deriving DecidableEq, Repr

/-- A number as a port's vector; refused by name when it does not fit (30_encoding.md R55). -/
def portWord (port : UnitId) (w : Nat) : Except DecodeError PortWord :=
  match port with
  | .crc => if w < 2 ^ 10 then .ok (.crc (BitVec.ofNat 10 w)) else .error (.tooWide .crc)
  | .fenc => if w < 2 ^ 11 then .ok (.fenc (BitVec.ofNat 11 w)) else .error (.tooWide .fenc)
  | .fdec => if w < 2 ^ 10 then .ok (.fdec (BitVec.ofNat 10 w)) else .error (.tooWide .fdec)
  | .zat => if w < 2 ^ 32 then .ok (.zat (BitVec.ofNat 32 w)) else .error (.tooWide .zat)

/-- The decoder over any number on any port. -/
def decodeNat (port : UnitId) (w : Nat) : Except DecodeError Instr :=
  (portWord port w).map decode

/-- A command vector from its fields: `{op, din}` (30_encoding.md R56, R58, R60). -/
def cmdVec {k : Nat} (op : BitVec k) (din : Byte) : BitVec (k + 8) := op ++ din

/-- The vector the assembler writes for an operation, 0x00 in the ignored bits (30_encoding.md R68). The reserved
codes, which have no mnemonic, take 0x00 there too. -/
def encode : Instr → PortWord
  | .crcNop => .crc (cmdVec 0b00#2 0x00#8)
  | .crcInit => .crc (cmdVec 0b01#2 0x00#8)
  | .crcUpd din => .crc (cmdVec 0b10#2 din)
  | .crcRsvd3 => .crc (cmdVec 0b11#2 0x00#8)
  | .fencNop => .fenc (cmdVec 0b000#3 0x00#8)
  | .fencTgt din => .fenc (cmdVec 0b001#3 din)
  | .fencOpen => .fenc (cmdVec 0b010#3 0x00#8)
  | .fencHex din => .fenc (cmdVec 0b011#3 din)
  | .fencClose => .fenc (cmdVec 0b100#3 0x00#8)
  | .fencAbort => .fenc (cmdVec 0b101#3 0x00#8)
  | .fencRsvd6 => .fenc (cmdVec 0b110#3 0x00#8)
  | .fencRsvd7 => .fenc (cmdVec 0b111#3 0x00#8)
  | .fdecNop => .fdec (cmdVec 0b00#2 0x00#8)
  | .fdecStart => .fdec (cmdVec 0b01#2 0x00#8)
  | .fdecChr din => .fdec (cmdVec 0b10#2 din)
  | .fdecRsvd3 => .fdec (cmdVec 0b11#2 0x00#8)
  | .zat zone slot offset => .zat (zone ++ slot ++ offset)

/-- The value of a vector as a number. -/
def PortWord.toNat : PortWord → Nat
  | .crc v => v.toNat
  | .fenc v => v.toNat
  | .fdec v => v.toNat
  | .zat v => v.toNat

/-- A row of spec/opcode_table.json: its port and its match and mask over that port's vector (30_encoding.md R72). -/
structure OpcodeRow where
  mnemonic : String
  port     : UnitId
  value    : Nat
  mask     : Nat
  deriving DecidableEq, Repr

/-- spec/opcode_table.json, row by row. -/
def opcodeTable : List OpcodeRow :=
  [ ⟨"crc.nop", .crc, 0x000, 0x300⟩,
    ⟨"crc.init", .crc, 0x100, 0x300⟩,
    ⟨"crc.upd", .crc, 0x200, 0x300⟩,
    ⟨"CRC.RSVD3", .crc, 0x300, 0x300⟩,
    ⟨"fenc.nop", .fenc, 0x000, 0x700⟩,
    ⟨"fenc.tgt", .fenc, 0x100, 0x700⟩,
    ⟨"fenc.open", .fenc, 0x200, 0x700⟩,
    ⟨"fenc.hex", .fenc, 0x300, 0x700⟩,
    ⟨"fenc.close", .fenc, 0x400, 0x700⟩,
    ⟨"fenc.abort", .fenc, 0x500, 0x700⟩,
    ⟨"FENC.RSVD6", .fenc, 0x600, 0x700⟩,
    ⟨"FENC.RSVD7", .fenc, 0x700, 0x700⟩,
    ⟨"fdec.nop", .fdec, 0x000, 0x300⟩,
    ⟨"fdec.start", .fdec, 0x100, 0x300⟩,
    ⟨"fdec.chr", .fdec, 0x200, 0x300⟩,
    ⟨"FDEC.RSVD3", .fdec, 0x300, 0x300⟩,
    ⟨"zat", .zat, 0x00000000, 0x00000000⟩ ]

/-- The row's name for an operation, as the table spells it. -/
def Instr.mnemonic : Instr → String
  | .crcNop => "crc.nop"
  | .crcInit => "crc.init"
  | .crcUpd _ => "crc.upd"
  | .crcRsvd3 => "CRC.RSVD3"
  | .fencNop => "fenc.nop"
  | .fencTgt _ => "fenc.tgt"
  | .fencOpen => "fenc.open"
  | .fencHex _ => "fenc.hex"
  | .fencClose => "fenc.close"
  | .fencAbort => "fenc.abort"
  | .fencRsvd6 => "FENC.RSVD6"
  | .fencRsvd7 => "FENC.RSVD7"
  | .fdecNop => "fdec.nop"
  | .fdecStart => "fdec.start"
  | .fdecChr _ => "fdec.chr"
  | .fdecRsvd3 => "FDEC.RSVD3"
  | .zat _ _ _ => "zat"

/-- Whether a vector is one of a row's: the row's port, and the row's fixed bits (30_encoding.md R72). -/
def OpcodeRow.matchesWord (r : OpcodeRow) (w : PortWord) : Bool :=
  r.port == w.unit && (w.toNat &&& r.mask) == r.value

/-- DESIGN CHOICE (log 12): the port a table word is read on. The four ports have words of their own and the table's
numbers overlap between them, so a bare number does not say its port. A 32-bit word is ZAT's; an 11-bit one FENC's;
any other is read on the first port of the table's order (CRC, FENC, FDEC) whose vector has room for it, which for a
number that fits `crc_cmd` is CRC. -/
def tablePort (nbits w : Nat) : Option UnitId :=
  if 16 < nbits then (if nbits ≤ 32 ∧ w < 2 ^ 32 then some .zat else none)
  else if nbits = 11 then (if w < 2 ^ 11 then some .fenc else none)
  else if w < 2 ^ 10 then some .crc
  else if w < 2 ^ 11 then some .fenc
  else none

/-- The vector a table word stands for, on the port `tablePort` reads it on. -/
def tableWord (nbits w : Nat) : Option PortWord :=
  match tablePort nbits w with
  | none => none
  | some port =>
    match portWord port w with
    | .ok p => some p
    | .error _ => none

/-- What the decoder reads from a table word. -/
def decodeTableWord (nbits w : Nat) : Option Instr := (tableWord nbits w).map decode

end Sys2Proof
end

