-- ==== Sys2Proof/Machine/State.lean ====
section
/-! DEFINITION. The state of KPC as plain data (10_state.md R20 to R33), the model's own bookkeeping fields, the reasons a step can stop (none does), and the state after reset. -/

namespace Sys2Proof.Machine

/-- The error codes, one namespace for the whole block (60_exceptions.md R155). The reserved codes 8 to 15 are "never
produced" and have no constructor (log 10). -/
inductive ErrCode where
  /-- E_NONE, 0. -/
  | none
  /-- E_ZONE, 1: ZAT, zone not 0 or 2. -/
  | zone
  /-- E_SLOT, 2: ZAT, zone 2 and slot above 15. -/
  | slot
  /-- E_ADDR_OVF, 3: ZAT, zone 2 and offset 8192 or more. -/
  | addrOvf
  /-- E_PARSE, 4: FDEC, end of frame before a complete `HH(...)`. -/
  | parse
  /-- E_HEX, 5: FDEC, the body is not an even-length hex string. -/
  | hex
  /-- E_ENC_SEQ, 6: FENC, operation out of the frame order. -/
  | encSeq
  /-- E_ENC_CHAR, 7: FENC, illegal target character. -/
  | encChar
  deriving DecidableEq, Repr

/-- `fenc_phase`: three values, code 0b11 is unreachable and has no constructor (10_state.md R25, log 9). -/
inductive FencPhase where
  | idle
  | target
  | body
  deriving DecidableEq, Repr

/-- `fdec_phase` (10_state.md R28). -/
inductive FdecPhase where
  | scan
  | body
  | done
  | error
  deriving DecidableEq, Repr

/-- The CRC unit's registers (10_state.md R21, R22). -/
structure CrcRegs where
  /-- `crc_acc[15:0]`. -/
  acc  : Word16
  /-- `crc_rsvd`, a pulse. -/
  rsvd : Bool
  deriving DecidableEq, Repr

/-- The frame encoder's registers (10_state.md R24). -/
structure FencRegs where
  /-- `fenc_phase`. -/
  phase : FencPhase
  /-- `fenc_len`, a pulse. -/
  len   : BitVec 2
  /-- `fenc_b0`, a pulse. -/
  b0    : Byte
  /-- `fenc_b1`, a pulse. -/
  b1    : Byte
  /-- `fenc_err`, a pulse. -/
  err   : ErrCode
  /-- `fenc_rsvd`, a pulse. -/
  rsvd  : Bool
  deriving DecidableEq, Repr

/-- The frame decoder's registers (10_state.md R26). `nhist` takes the values 0, 1 and 2 only (R27, log 9). -/
structure FdecRegs where
  /-- `fdec_phase`. -/
  phase  : FdecPhase
  /-- `fdec_nhist`. -/
  nhist  : Fin 3
  /-- `fdec_prev2`. -/
  prev2  : Byte
  /-- `fdec_prev1`. -/
  prev1  : Byte
  /-- `fdec_status`. -/
  status : Byte
  /-- `fdec_nibv`. -/
  nibv   : Bool
  /-- `fdec_nib`. -/
  nib    : Nibble
  /-- `fdec_bad`. -/
  bad    : Bool
  /-- `fdec_bvalid`, a pulse. -/
  bvalid : Bool
  /-- `fdec_byte`. -/
  byte   : Byte
  /-- `fdec_err`, sticky in phase ERROR. -/
  err    : ErrCode
  /-- `fdec_rsvd`, a pulse. -/
  rsvd   : Bool
  deriving DecidableEq, Repr

/-- ZAT's outputs `at_addr` and `at_err` in one cycle (43_address_translator.md R140). -/
structure ZatOut where
  addr : Word16
  err  : ErrCode
  deriving DecidableEq, Repr

/-- One entry of the fault log: a raised code "with cycle number and unit" (60_exceptions.md R168). -/
structure Raised where
  cycle : Nat
  unit  : UnitId
  code  : ErrCode
  deriving DecidableEq, Repr

/-- The whole machine: every register of 10_state.md, and after them the model's own fields. -/
structure State where
  crc    : CrcRegs
  fenc   : FencRegs
  fdec   : FdecRegs
  /-- MODEL's own: the parameter P_CRC_BASE (00_scope.md R7, log 1). -/
  config : Config
  /-- MODEL's own: ZAT's outputs in the latest cycle, if its line presents a ZAT input (30_encoding.md R70, log 5). -/
  zat    : Option ZatOut
  /-- MODEL's own: the host's pending lines, the next cycle's first (30_encoding.md R67, log 2). -/
  lines  : List CycleIn
  /-- MODEL's own: how many cycles are complete (log 7). -/
  cycle  : Nat
  /-- MODEL's own: every code raised so far, oldest first (60_exceptions.md R168, log 7). -/
  log    : List Raised
  deriving DecidableEq, Repr

/-- KPC never faults: "every error is an output code" (93_implementation_defined.md section 3, 60_exceptions.md R161).
So there is no constructor, and none of the model's meanings can stop with a fault (log 18). -/
inductive Fault where
  deriving DecidableEq, Repr

/-- Why the model has no meaning for an instruction. -/
inductive Refusal where
  /-- An instruction of the table without a meaning: raised by `exec`'s arm only. Safe: the model stops where the
  hardware goes on. No arm answers it now. -/
  | notModelled (mnemonic : String)
  deriving DecidableEq, Repr

/-- The CRC registers after reset (10_state.md R33). -/
def CrcRegs.reset : CrcRegs := { acc := 0x0000, rsvd := false }

/-- The FENC registers after reset (10_state.md R33). -/
def FencRegs.reset : FencRegs :=
  { phase := .idle, len := 0, b0 := 0x00, b1 := 0x00, err := .none, rsvd := false }

/-- The FDEC registers after reset (10_state.md R33). -/
def FdecRegs.reset : FdecRegs :=
  { phase := .scan, nhist := 0, prev2 := 0x00, prev1 := 0x00, status := 0x00, nibv := false, nib := 0,
    bad := false, bvalid := false, byte := 0x00, err := .none, rsvd := false }

/-- The machine right after reset: every register at its value of 10_state.md R33; P_CRC_BASE at its default (00_scope.md
R7); the model's other fields empty (DESIGN CHOICE, log 19). No line is pending: programs come from outside (log 4). -/
def State.reset : State :=
  { crc := CrcRegs.reset, fenc := FencRegs.reset, fdec := FdecRegs.reset, config := {}, zat := Option.none, lines := [],
    cycle := 0, log := [] }

end Sys2Proof.Machine
end

