-- ==== Sys2Proof/Machine/Operands.lean ====
section
/-! DEFINITION. Operand forms: the primitive functions and character constants of 00_scope.md R12 and R13, the operand assembly of 30_encoding.md R63, and the byte orders of 20_memory.md R36 to R38. -/

namespace Sys2Proof.Machine

/-! ## Characters (00_scope.md R13; the ASCII codes other than LF are PRESUMED, log 23) -/

/-- LF, `\n`. -/
def chLF : Byte := 0x0A

/-- LPAREN. -/
def chLParen : Byte := 0x28

/-- RPAREN. -/
def chRParen : Byte := 0x29

/-! ## Hex digits -/

/-- `ishex` (00_scope.md R12): both letter cases (42_frame_decoder.md R125, log 16). -/
def ishex (c : Byte) : Bool :=
  (0x30#8 ≤ c && c ≤ 0x39#8) || (0x41#8 ≤ c && c ≤ 0x46#8) || (0x61#8 ≤ c && c ≤ 0x66#8)

/-- `hexval` (00_scope.md R12): the rule gives it on hex digits only, and only there do the meanings use it. -/
def hexval (c : Byte) : Nibble :=
  if c ≤ 0x39#8 then (c - 0x30#8).setWidth 4
  else if c ≤ 0x46#8 then (c - 0x41#8 + 10#8).setWidth 4
  else (c - 0x61#8 + 10#8).setWidth 4

/-- `hexchar` (00_scope.md R12): lowercase. -/
def hexchar (n : Nibble) : Byte :=
  if n ≤ 9#4 then 0x30#8 + n.setWidth 8 else 0x61#8 + (n.setWidth 8 - 10#8)

/-- `b[7:4]`, the nibble that comes first in hex text (20_memory.md R38). -/
def hiNibble (b : Byte) : Nibble := b.extractLsb' 4 4

/-- `b[3:0]`. -/
def loNibble (b : Byte) : Nibble := b.extractLsb' 0 4

/-- `{hi, lo}`: the byte two hex digits give, the first digit high (20_memory.md R38). -/
def ofNibbles (hi lo : Nibble) : Byte := hi ++ lo

/-- `legal_target_char` (41_frame_encoder.md R103). -/
def legalTargetChar (c : Byte) : Bool :=
  0x21#8 ≤ c && c ≤ 0x7E#8 && c != chLParen && c != chRParen

/-! ## CRC -/

/-- `rev16` (00_scope.md R12): bit i of the result is bit 15 - i. -/
def rev16 (x : Word16) : Word16 := x.reverse

/-- "repeat 8 times" of 40_crc.md R78 and R79. -/
def repeat8 (f : Word16 → Word16) (x : Word16) : Word16 := f (f (f (f (f (f (f (f x)))))))

/-- One turn of the loop of 40_crc.md R78. -/
def arcBit (x : Word16) : Word16 :=
  if x.getLsbD 0 then (x >>> 1) ^^^ 0xA001#16 else x >>> 1

/-- One turn of the loop of 40_crc.md R79. -/
def literalBit (x : Word16) : Word16 :=
  if x.getLsbD 15 then (x <<< 1) ^^^ 0x8005#16 else x <<< 1

/-- The accumulator after CRC.UPD at ARC_REFLECTED (40_crc.md R78); `din` enters as `zext_16(din)` (30_encoding.md R63). -/
def crcUpdArc (acc : Word16) (din : Byte) : Word16 := repeat8 arcBit (acc ^^^ din.setWidth 16)

/-- The accumulator after CRC.UPD at LITERAL_UNREFLECTED (40_crc.md R79); `din` enters as `din << 8` (30_encoding.md R63). -/
def crcUpdLiteral (acc : Word16) (din : Byte) : Word16 :=
  repeat8 literalBit (acc ^^^ (din.setWidth 16 <<< 8))

/-- The accumulator after CRC.UPD at a setting of P_CRC_BASE (00_scope.md R7). -/
def crcUpdAt (base : CrcBase) (acc : Word16) (din : Byte) : Word16 :=
  match base with
  | .arcReflected => crcUpdArc acc din
  | .literalUnreflected => crcUpdLiteral acc din

/-! ## Two-byte fields on the wire -/

/-- The first byte on the wire of a little-endian 16-bit field: bits 7:0 (20_memory.md R36, R37). -/
def wireFirst (v : Word16) : Byte := v.extractLsb' 0 8

/-- The second byte on the wire: bits 15:8 (20_memory.md R36, R37). -/
def wireSecond (v : Word16) : Byte := v.extractLsb' 8 8

/-! ## ZAT offsets (43_address_translator.md R142) -/

/-- `block = at_offset[15:5]`, 11 bits. -/
def offsetBlock (offset : Word16) : BitVec 11 := offset.extractLsb' 5 11

/-- `word = at_offset[4:2]`, 3 bits; `at_offset[1:0]` is discarded. -/
def offsetWord (offset : Word16) : BitVec 3 := offset.extractLsb' 2 3

/-! ## History length -/

/-- `min(fdec_nhist + 1, 2)` (42_frame_decoder.md R119). -/
def histCount (n : Fin 3) : Fin 3 :=
  match n with
  | 0 => 1
  | 1 => 2
  | 2 => 2

end Sys2Proof.Machine
end

