-- ==== Sys2Proof/Machine/Flags.lean ====
section
/-! DEFINITION. Status indications and outputs. KPC has no condition codes (10_state.md R30): its "flags" are the error codes (60_exceptions.md R155), the phase codes (10_state.md R25, R28), the derived FDEC flags (42_frame_decoder.md R133) and the CRC outputs (40_crc.md R82, R83), all functions of the state, gathered in the output tuple of 00_scope.md R19. -/

namespace Sys2Proof.Machine

/-- The number of an error code, 4 bits (60_exceptions.md R155). -/
def ErrCode.code : ErrCode → BitVec 4
  | .none => 0
  | .zone => 1
  | .slot => 2
  | .addrOvf => 3
  | .parse => 4
  | .hex => 5
  | .encSeq => 6
  | .encChar => 7

/-- The code of `fenc_phase` (10_state.md R25). -/
def FencPhase.code : FencPhase → BitVec 2
  | .idle => 0b00
  | .target => 0b01
  | .body => 0b10

/-- The phase a hardware implementation takes a code for: "finds 0b11 treats it as IDLE" (10_state.md R25, log 9). -/
def FencPhase.ofCode (c : BitVec 2) : FencPhase :=
  if c = 0b01#2 then .target else if c = 0b10#2 then .body else .idle

/-- The code of `fdec_phase` (10_state.md R28). -/
def FdecPhase.code : FdecPhase → BitVec 2
  | .scan => 0b00
  | .body => 0b01
  | .done => 0b10
  | .error => 0b11

/-- The unit that raises a code (60_exceptions.md R155); E_NONE is raised by none. -/
def ErrCode.unit : ErrCode → Option UnitId
  | .none => Option.none
  | .zone => some .zat
  | .slot => some .zat
  | .addrOvf => some .zat
  | .parse => some .fdec
  | .hex => some .fdec
  | .encSeq => some .fenc
  | .encChar => some .fenc

/-- `crc_arc = crc_acc` (40_crc.md R82). -/
def crcArc (c : CrcRegs) : Word16 := c.acc

/-- `crc_field = rev16(crc_acc)` (40_crc.md R82). -/
def crcField (c : CrcRegs) : Word16 := rev16 c.acc

/-- `crc_b0 = crc_field[7:0]` (40_crc.md R83). -/
def crcB0 (c : CrcRegs) : Byte := wireFirst (crcField c)

/-- `crc_b1 = crc_field[15:8]` (40_crc.md R83). -/
def crcB1 (c : CrcRegs) : Byte := wireSecond (crcField c)

/-- `fdec_done` (42_frame_decoder.md R133). -/
def fdecDone (d : FdecRegs) : Bool := d.phase == .done

/-- `fdec_status_err` (42_frame_decoder.md R133). -/
def fdecStatusErr (d : FdecRegs) : Bool := d.phase == .done && d.status != 0x00#8

/-- The bytes FENC's last operation produced, in wire order: the first `fenc_len` of `fenc_b0`, `fenc_b1`
(41_frame_encoder.md R106). -/
def fencBytes (f : FencRegs) : List Byte := [f.b0, f.b1].take f.len.toNat

/-- The body byte FDEC strobes, if it strobes one (42_frame_decoder.md R131). -/
def fdecStrobe (d : FdecRegs) : List Byte := if d.bvalid then [d.byte] else []

/-- The output tuple of KPC, every row of 00_scope.md R19. `at` is `none` where ZAT's outputs are no part of the line's
observation (30_encoding.md R70). -/
structure Outputs where
  crcArc        : Word16
  crcField      : Word16
  crcB0         : Byte
  crcB1         : Byte
  crcRsvd       : Bool
  fencLen       : BitVec 2
  fencB0        : Byte
  fencB1        : Byte
  fencErr       : BitVec 4
  fencRsvd      : Bool
  fencPhase     : BitVec 2
  fdecPhase     : BitVec 2
  fdecStatus    : Byte
  fdecBvalid    : Bool
  fdecByte      : Byte
  fdecErr       : BitVec 4
  fdecRsvd      : Bool
  fdecDone      : Bool
  fdecStatusErr : Bool
  atAddr        : Option Word16
  atErr         : Option (BitVec 4)
  deriving DecidableEq, Repr

/-- What the host observes after a cycle (00_scope.md R18, R19): the sequential outputs are functions of the state after
the edge (70_reset_and_hazards.md R182), ZAT's are those of the cycle itself. -/
def State.outputs (s : State) : Outputs :=
  { crcArc := Sys2Proof.Machine.crcArc s.crc
    crcField := Sys2Proof.Machine.crcField s.crc
    crcB0 := Sys2Proof.Machine.crcB0 s.crc
    crcB1 := Sys2Proof.Machine.crcB1 s.crc
    crcRsvd := s.crc.rsvd
    fencLen := s.fenc.len
    fencB0 := s.fenc.b0
    fencB1 := s.fenc.b1
    fencErr := s.fenc.err.code
    fencRsvd := s.fenc.rsvd
    fencPhase := s.fenc.phase.code
    fdecPhase := s.fdec.phase.code
    fdecStatus := s.fdec.status
    fdecBvalid := s.fdec.bvalid
    fdecByte := s.fdec.byte
    fdecErr := s.fdec.err.code
    fdecRsvd := s.fdec.rsvd
    fdecDone := Sys2Proof.Machine.fdecDone s.fdec
    fdecStatusErr := Sys2Proof.Machine.fdecStatusErr s.fdec
    atAddr := s.zat.map ZatOut.addr
    atErr := s.zat.map (fun z => z.err.code) }

end Sys2Proof.Machine
end

