-- ==== Sys2Proof/Machine/Ops.lean ====
section
/-! DEFINITION. The named operations over the state: register writes, raising an error code (00_scope.md R10), reset (70_reset_and_hazards.md R175), taking the host's next line (30_encoding.md R67). KPC has no memory (20_memory.md R34) and takes no trap (60_exceptions.md R161): raising a code is all there is of an exception, and there is no return from one (R162). -/

namespace Sys2Proof.Machine

/-- The outcome of a step of KPC. -/
abbrev Result := Host.Outcome State Fault Refusal

/-! ## Register writes: a register a rule does not write keeps its value (00_scope.md R9) -/

/-- The CRC unit's registers after an edge. -/
def setCrc (c : CrcRegs) (s : State) : State := { s with crc := c }

/-- FENC's registers after an edge. -/
def setFenc (f : FencRegs) (s : State) : State := { s with fenc := f }

/-- FDEC's registers after an edge. -/
def setFdec (d : FdecRegs) (s : State) : State := { s with fdec := d }

/-- The sample of ZAT's outputs in this cycle (log 5). -/
def setZat (z : ZatOut) (s : State) : State := { s with zat := some z }

/-! ## Raising an error code -/

/-- The log entries a code raised in the cycle after `cycle` complete ones leaves: "every raised code (with cycle number
and unit)" (60_exceptions.md R168), cycles counted from 1 (log 7). E_NONE is no error and leaves none. -/
def raisedEntries (cycle : Nat) (unit : UnitId) (code : ErrCode) : List Raised :=
  if code = .none then [] else [{ cycle := cycle + 1, unit := unit, code := code }]

/-- The fault-log side of `raise E_X` (00_scope.md R10, 60_exceptions.md R168): the code is appended to the log. The
error output itself is a register of the unit (or, for ZAT, its output) and is written with the unit's registers. No
trap follows (R161). -/
def raiseCode (unit : UnitId) (code : ErrCode) (s : State) : State :=
  { s with log := s.log ++ raisedEntries s.cycle unit code }

/-- FENC's registers after an operation, and the code it raises: `fenc_err` is a pulse that every operation writes
(41_frame_encoder.md R95), so its new value is the code this operation raised. -/
def commitFenc (f : FencRegs) (s : State) : State := raiseCode .fenc f.err (setFenc f s)

/-- FDEC's registers after an operation, and the code it raises: `fdec_err` is sticky (42_frame_decoder.md R118), so
the code raised stands beside the registers. -/
def commitFdec (r : FdecRegs × ErrCode) (s : State) : State := raiseCode .fdec r.2 (setFdec r.1 s)

/-- ZAT's outputs of the cycle, and the code they hold (43_address_translator.md R141). -/
def commitZat (z : ZatOut) (s : State) : State := raiseCode .zat z.err (setZat z s)

/-! ## Reset -/

/-- The edge of a cycle with `rst = 1`: every register of KPC takes its value of 10_state.md R33
(70_reset_and_hazards.md R175). The model's own fields are no registers: the parameter stays, and the fault log is one
"that no step clears" (60_exceptions.md R168). -/
def resetRegs (s : State) : State :=
  { s with crc := CrcRegs.reset, fenc := FencRegs.reset, fdec := FdecRegs.reset }

/-! ## The host's lines -/

/-- A cycle in which the host leaves every unit idle: NOP is op 0 on each sequential port (30_encoding.md R55), and ZAT
is not named. An empty line (30_encoding.md R67) is this. -/
def idleLine : CycleIn := { rst := false, crc := 0, fenc := 0, fdec := 0, zat := none }

/-- The inputs of the next cycle: the host's next line. Where no line is pending the host leaves every unit idle
(DESIGN CHOICE, log 3). -/
def nextLine (s : State) : CycleIn :=
  match s.lines with
  | [] => idleLine
  | l :: _ => l

/-- A line with one port's vector replaced. -/
def drive (w : PortWord) (l : CycleIn) : CycleIn :=
  match w with
  | .crc v => { l with crc := v }
  | .fenc v => { l with fenc := v }
  | .fdec v => { l with fdec := v }
  | .zat v => { l with zat := some v }

/-- `s` with a line that presents one vector, every other unit idle, as the host's next (log 13). -/
def presentWord (w : PortWord) (s : State) : State := { s with lines := drive w idleLine :: s.lines }

/-- The start of a cycle: the line is taken, the ZAT sample of the cycle before is dropped, and with `rst = 1` the
sequential units are reset (70_reset_and_hazards.md R175, R176). -/
def beginCycle (l : CycleIn) (s : State) : State :=
  let t : State := { s with lines := s.lines.tail, zat := none }
  if l.rst then resetRegs t else t

/-- The end of a cycle: it is counted (log 7). -/
def endCycle (s : State) : State := { s with cycle := s.cycle + 1 }

/-- The operations of a cycle, one per sequential unit (30_encoding.md R55) and ZAT's if its input is presented, in the
fixed order CRC, FENC, FDEC, ZAT (20_memory.md R47, log 14). With `rst = 1` the sequential ones are discarded
(70_reset_and_hazards.md R176); ZAT follows its inputs even then. -/
def lineOps (l : CycleIn) : List Instr :=
  (if l.rst then [] else [decode (.crc l.crc), decode (.fenc l.fenc), decode (.fdec l.fdec)]) ++
    (match l.zat with
      | none => []
      | some v => [decode (.zat v)])

/-! ## Sequencing outcomes -/

/-- Go on with `f` from a next state; stop where the outcome stops. -/
def andThen (o : Result) (f : State → Result) : Result :=
  match o with
  | .next s => f s
  | .fault r => .fault r
  | .refused r => .refused r

end Sys2Proof.Machine
end

