-- ==== Sys2Proof/Machine/Crc.lean ====
section
/-! DEFINITION. The meanings of the CRC unit's operations (40_crc.md R76 to R80). -/

namespace Sys2Proof.Machine

/-- CRC.NOP (40_crc.md R76). -/
def execCrcNop (s : State) : Result := .next (setCrc { s.crc with rsvd := false } s)

/-- CRC.INIT (40_crc.md R77). -/
def execCrcInit (s : State) : Result := .next (setCrc { acc := 0x0000, rsvd := false } s)

/-- CRC.UPD (40_crc.md R78 at ARC_REFLECTED, R79 at LITERAL_UNREFLECTED). -/
def execCrcUpd (din : Byte) (s : State) : Result :=
  .next (setCrc { acc := crcUpdAt s.config.crcBase s.crc.acc din, rsvd := false } s)

/-- Reserved CRC op code 0b11 (40_crc.md R80): NOP's state change and the pulse (log 11). -/
def execCrcRsvd3 (s : State) : Result := .next (setCrc { s.crc with rsvd := true } s)

end Sys2Proof.Machine
end

