-- ==== Sys2Proof/Machine/Fdec.lean ====
section
/-! DEFINITION. The meanings of the frame decoder's operations (42_frame_decoder.md R116 to R130). -/

namespace Sys2Proof.Machine

/-- `fdec_bvalid <- 0; fdec_rsvd <- 0` (42_frame_decoder.md R116, R119 to R122). -/
def fdecClear (d : FdecRegs) : FdecRegs := { d with bvalid := false, rsvd := false }

/-- `fdec_phase <- ERROR; fdec_err <- code`, and the code as raised (42_frame_decoder.md R118). -/
def fdecFail (d : FdecRegs) (code : ErrCode) : FdecRegs × ErrCode :=
  ({ fdecClear d with phase := .error, err := code }, code)

/-- FDEC.NOP (42_frame_decoder.md R116). -/
def execFdecNop (s : State) : Result := .next (commitFdec (fdecClear s.fdec, .none) s)

/-- FDEC.START's registers (42_frame_decoder.md R117). -/
def fdecStartRegs : FdecRegs :=
  { phase := .scan, nhist := 0, prev2 := 0x00, prev1 := 0x00, status := 0x00, nibv := false, nib := 0,
    bad := false, bvalid := false, byte := 0x00, err := .none, rsvd := false }

/-- FDEC.START (42_frame_decoder.md R117). -/
def execFdecStart (s : State) : Result := .next (commitFdec (fdecStartRegs, .none) s)

/-- "two hex digits immediately followed by `(`": the history test of 42_frame_decoder.md R119. -/
def fdecHistHex (d : FdecRegs) : Bool := d.nhist == 2 && ishex d.prev2 && ishex d.prev1

/-- FDEC.CHR in phase SCAN (42_frame_decoder.md R119). -/
def fdecChrScan (din : Byte) (d : FdecRegs) : FdecRegs × ErrCode :=
  if din = chLParen ∧ fdecHistHex d = true then
    ({ fdecClear d with
        status := ofNibbles (hexval d.prev2) (hexval d.prev1), phase := .body, nibv := false, bad := false }, .none)
  else if din = chLF then fdecFail d .parse
  else ({ fdecClear d with prev2 := d.prev1, prev1 := din, nhist := histCount d.nhist }, .none)

/-- FDEC.CHR in phase BODY (42_frame_decoder.md R120). -/
def fdecChrBody (din : Byte) (d : FdecRegs) : FdecRegs × ErrCode :=
  if din = chRParen then
    if d.bad = true ∨ d.nibv = true then fdecFail d .hex else ({ fdecClear d with phase := .done }, .none)
  else if din = chLF then fdecFail d .parse
  else if d.bad = true then (fdecClear d, .none)
  else if ishex din = true then
    if d.nibv = false then ({ fdecClear d with nib := hexval din, nibv := true }, .none)
    else ({ fdecClear d with byte := ofNibbles d.nib (hexval din), bvalid := true, nibv := false }, .none)
  else ({ fdecClear d with bad := true }, .none)

/-- FDEC.CHR by phase: SCAN R119, BODY R120, DONE R121, ERROR R122 (42_frame_decoder.md). -/
def fdecChrRegs (din : Byte) (d : FdecRegs) : FdecRegs × ErrCode :=
  match d.phase with
  | .scan => fdecChrScan din d
  | .body => fdecChrBody din d
  | .done => (fdecClear d, .none)
  | .error => (fdecClear d, .none)

/-- FDEC.CHR (42_frame_decoder.md R119 to R122). -/
def execFdecChr (din : Byte) (s : State) : Result := .next (commitFdec (fdecChrRegs din s.fdec) s)

/-- Reserved FDEC op code 0b11 (42_frame_decoder.md R128, log 11). -/
def execFdecRsvd3 (s : State) : Result :=
  .next (commitFdec ({ s.fdec with bvalid := false, rsvd := true }, .none) s)

end Sys2Proof.Machine
end

