-- ==== Sys2Proof/Machine/Fenc.lean ====
section
/-! DEFINITION. The meanings of the frame encoder's operations (41_frame_encoder.md R95 to R104). Every operation writes all five pulse registers (R95). -/

namespace Sys2Proof.Machine

/-- An operation that produces no byte and raises no error (41_frame_encoder.md R97, R102, R104). -/
def fencQuiet (phase : FencPhase) (rsvd : Bool) : FencRegs :=
  { phase := phase, len := 0, b0 := 0x00, b1 := 0x00, err := .none, rsvd := rsvd }

/-- An operation that raises a code: no output, the phase unchanged (41_frame_encoder.md R95). -/
def fencFail (f : FencRegs) (code : ErrCode) : FencRegs :=
  { phase := f.phase, len := 0, b0 := 0x00, b1 := 0x00, err := code, rsvd := false }

/-- An operation that produces one byte: the unused byte register takes 0x00 (41_frame_encoder.md R95). -/
def fencOne (phase : FencPhase) (b : Byte) : FencRegs :=
  { phase := phase, len := 1, b0 := b, b1 := 0x00, err := .none, rsvd := false }

/-- An operation that produces two bytes, the first on the wire first (41_frame_encoder.md R95). -/
def fencTwo (phase : FencPhase) (b0 b1 : Byte) : FencRegs :=
  { phase := phase, len := 2, b0 := b0, b1 := b1, err := .none, rsvd := false }

/-- FENC.NOP (41_frame_encoder.md R97). -/
def execFencNop (s : State) : Result := .next (commitFenc (fencQuiet s.fenc.phase false) s)

/-- FENC.TGT's registers (41_frame_encoder.md R98): the phase check comes before the character check
(60_exceptions.md R160). -/
def fencTgtRegs (din : Byte) (f : FencRegs) : FencRegs :=
  if f.phase = .body then fencFail f .encSeq
  else if legalTargetChar din then fencOne .target din
  else fencFail f .encChar

/-- FENC.TGT (41_frame_encoder.md R98). -/
def execFencTgt (din : Byte) (s : State) : Result := .next (commitFenc (fencTgtRegs din s.fenc) s)

/-- FENC.OPEN's registers (41_frame_encoder.md R99). -/
def fencOpenRegs (f : FencRegs) : FencRegs :=
  if f.phase = .target then fencOne .body chLParen else fencFail f .encSeq

/-- FENC.OPEN (41_frame_encoder.md R99). -/
def execFencOpen (s : State) : Result := .next (commitFenc (fencOpenRegs s.fenc) s)

/-- FENC.HEX's registers (41_frame_encoder.md R100): high nibble first. -/
def fencHexRegs (din : Byte) (f : FencRegs) : FencRegs :=
  if f.phase = .body then fencTwo .body (hexchar (hiNibble din)) (hexchar (loNibble din)) else fencFail f .encSeq

/-- FENC.HEX (41_frame_encoder.md R100). -/
def execFencHex (din : Byte) (s : State) : Result := .next (commitFenc (fencHexRegs din s.fenc) s)

/-- FENC.CLOSE's registers (41_frame_encoder.md R101). -/
def fencCloseRegs (f : FencRegs) : FencRegs :=
  if f.phase = .body then fencTwo .idle chRParen chLF else fencFail f .encSeq

/-- FENC.CLOSE (41_frame_encoder.md R101). -/
def execFencClose (s : State) : Result := .next (commitFenc (fencCloseRegs s.fenc) s)

/-- FENC.ABORT (41_frame_encoder.md R102). -/
def execFencAbort (s : State) : Result := .next (commitFenc (fencQuiet .idle false) s)

/-- Reserved FENC op code 0b110 (41_frame_encoder.md R104, log 11). -/
def execFencRsvd6 (s : State) : Result := .next (commitFenc (fencQuiet s.fenc.phase true) s)

/-- Reserved FENC op code 0b111 (41_frame_encoder.md R104, log 11). -/
def execFencRsvd7 (s : State) : Result := .next (commitFenc (fencQuiet s.fenc.phase true) s)

end Sys2Proof.Machine
end

