-- ==== Sys2Proof/Machine/Zat.lean ====
section
/-! DEFINITION. The meaning of the address translator's one operation (43_address_translator.md R140 to R149). -/

namespace Sys2Proof.Machine

/-- ZAT's outputs on an error: the address is 0x0000 (43_address_translator.md R148, log 17). -/
def zatFail (code : ErrCode) : ZatOut := { addr := 0x0000, err := code }

/-- ZAT.CALC's outputs (43_address_translator.md R141), a function of the inputs alone (R140): the zone check first,
then the slot check, then the overflow check (R148). -/
def zatCalc (zone slot : Byte) (offset : Word16) : ZatOut :=
  let block := offsetBlock offset
  let word := offsetWord offset
  if zone = 2#8 then
    if slot > 15#8 then zatFail .slot
    else if block > 255#11 then zatFail .addrOvf
    else { addr := (block.setWidth 16 <<< 8) ||| (slot.setWidth 16 <<< 3) ||| word.setWidth 16, err := .none }
  else if zone = 0#8 then
    { addr := (block.setWidth 16 <<< 3) ||| word.setWidth 16, err := .none }
  else zatFail .zone

/-- ZAT.CALC (43_address_translator.md R141): combinational, it writes no register; the model samples its outputs and
logs a raised code (log 5, log 7). -/
def execZat (zone slot : Byte) (offset : Word16) (s : State) : Result := .next (commitZat (zatCalc zone slot offset) s)

end Sys2Proof.Machine
end

