-- ==== Sys2Proof/Machine/Dispatch.lean ====
section
/-! DEFINITION. The meaning of each operation, one arm per row of spec/opcode_table.json. -/

namespace Sys2Proof.Machine

/-- One operation of one unit at one clock edge (00_scope.md R14). It touches its own unit's registers only; a cycle
runs one per sequential unit (Machine/Cycle.lean). -/
def exec (i : Instr) (s : State) : Host.Outcome State Fault Refusal :=
  match i with
  | .crcNop => Sys2Proof.Machine.execCrcNop s
  | .crcInit => Sys2Proof.Machine.execCrcInit s
  | .crcUpd din => Sys2Proof.Machine.execCrcUpd din s
  | .crcRsvd3 => Sys2Proof.Machine.execCrcRsvd3 s
  | .fencNop => Sys2Proof.Machine.execFencNop s
  | .fencTgt din => Sys2Proof.Machine.execFencTgt din s
  | .fencOpen => Sys2Proof.Machine.execFencOpen s
  | .fencHex din => Sys2Proof.Machine.execFencHex din s
  | .fencClose => Sys2Proof.Machine.execFencClose s
  | .fencAbort => Sys2Proof.Machine.execFencAbort s
  | .fencRsvd6 => Sys2Proof.Machine.execFencRsvd6 s
  | .fencRsvd7 => Sys2Proof.Machine.execFencRsvd7 s
  | .fdecNop => Sys2Proof.Machine.execFdecNop s
  | .fdecStart => Sys2Proof.Machine.execFdecStart s
  | .fdecChr din => Sys2Proof.Machine.execFdecChr din s
  | .fdecRsvd3 => Sys2Proof.Machine.execFdecRsvd3 s
  | .zat zone slot offset => Sys2Proof.Machine.execZat zone slot offset s

end Sys2Proof.Machine
end

