-- ==== Sys2Proof/Machine/Cycle.lean ====
section
/-! DEFINITION. One clock cycle of the block: the operations the host presents to the units, each as its meaning says (00_scope.md R18, 20_memory.md R46, R47). -/

namespace Sys2Proof.Machine

/-- Operations one after another, each by its meaning. -/
def runOps : List Instr → State → Result
  | [], s => .next s
  | i :: is, s => andThen (exec i s) (runOps is)

/-- One cycle on the given inputs: "`step(s, in) = s'`" of 00_scope.md R18. -/
def runLine (l : CycleIn) (s : State) : Result :=
  andThen (runOps (lineOps l) (beginCycle l s)) (fun t => .next (endCycle t))

/-- One cycle on the host's next line. -/
def runCycle (s : State) : Result := runLine (nextLine s) s

end Sys2Proof.Machine
end

