-- ==== Sys2Proof/Machine/Step.lean ====
section
/-! DEFINITION. The step of the machine: one clock cycle. It only calls Machine/Cycle.lean. -/

namespace Sys2Proof.Machine

/-- One clock cycle on the host's next line (00_scope.md R18, 30_encoding.md R67). -/
def step (s : State) : Host.Outcome State Fault Refusal := runCycle s

/-- `s` with the vector a table word stands for presented as the host's next line, every other unit idle, so that the
next step runs exactly that operation (log 12, log 13). A number that is no vector presents nothing. -/
def State.withFetchWord (s : State) (nbits w : Nat) : State :=
  match tableWord nbits w with
  | none => s
  | some p => presentWord p s

end Sys2Proof.Machine
end

