-- ==== Sys2Proof/Machine/Asm.lean ====
section
/-! DEFINITION. The assembler's lines and pseudo-instructions (30_encoding.md R67 to R69), and the command packet the CRC covers, as context (40_crc.md R86, R87). -/

namespace Sys2Proof.Machine

/-- The vector an operation of a line stands for (30_encoding.md R68). -/
def asmWord : AsmOp → PortWord
  | .op i => encode i
  | .raw w => w

/-- The inputs of the cycle a line stands for: "A unit that a line does not name performs its NOP in that cycle"
(30_encoding.md R67); `rst` is a cycle with `rst = 1`. -/
def lineInputs : Line → CycleIn
  | .rst => { idleLine with rst := true }
  | .ops l => l.foldl (fun acc o => drive (asmWord o) acc) idleLine

/-- A line as the assembler accepts it: none where it is ill formed (30_encoding.md R67, R68). -/
def assembleLine (l : Line) : Option CycleIn := if l.wellFormed then some (lineInputs l) else none

/-- A program as the assembler accepts it: one cycle per line, in order (30_encoding.md R67). -/
def assembleProgram : List Line → Option (List CycleIn)
  | [] => some []
  | l :: ls =>
    match assembleLine l, assembleProgram ls with
    | some c, some cs => some (c :: cs)
    | _, _ => none

/-- A line of one operation. -/
def opLine (i : Instr) : Line := .ops [.op i]

/-- The pseudo-instruction `nop`: an empty line (30_encoding.md R69). -/
def nopLine : Line := .ops []

/-- `crc.bytes B0, ..., Bn-1` (30_encoding.md R69): n+1 lines. -/
def crcBytesLines (d : List Byte) : List Line := opLine .crcInit :: d.map (fun b => opLine (.crcUpd b))

/-- `fenc.frame "T", B0, ..., Bn-1` (30_encoding.md R69): k+n+2 lines. -/
def fencFrameLines (t p : List Byte) : List Line :=
  t.map (fun c => opLine (.fencTgt c)) ++ opLine .fencOpen :: (p.map (fun b => opLine (.fencHex b)) ++ [opLine .fencClose])

/-- `fdec.line "S"` (30_encoding.md R69): m+1 lines. -/
def fdecLineLines (text : List Byte) : List Line := opLine .fdecStart :: text.map (fun c => opLine (.fdecChr c))

/-- A command packet of the source, `[length][opcode][param1][param2 LE][data][crc LE]` (40_crc.md R86). Context only:
KPC does not build packets (00_scope.md R5). -/
structure CommandPacket where
  opcode : Byte
  param1 : Byte
  param2 : Word16
  data   : List Byte
  deriving DecidableEq, Repr

/-- The bytes before the CRC field, which the CRC covers, in order (40_crc.md R86); `length = N + 7` (R87), and `param2`
little-endian (20_memory.md R37). The length byte holds N up to 248 (R87). -/
def packetPreCrc (k : CommandPacket) : List Byte :=
  BitVec.ofNat 8 (k.data.length + 7) :: k.opcode :: k.param1 :: wireFirst k.param2 :: wireSecond k.param2 :: k.data

/-- The whole packet, with the CRC field's two bytes as the host appends them (40_crc.md R86, 20_memory.md R36). -/
def packetBytes (k : CommandPacket) (field : Word16) : List Byte :=
  packetPreCrc k ++ [wireFirst field, wireSecond field]

end Sys2Proof.Machine
end

