-- ==== Sys2Proof/Safety.lean ====
section
/-! DEFINITION. Runs of the block, what the host observes and collects along a run, the frame-level functions ACC, ENC and DEC of the spec, the declarative readings they are held against, and the host's duties (70_reset_and_hazards.md R179 to R181), in the terms the statements use. The step enforces no duty (log 21). -/

namespace Sys2Proof.Machine

/-! ## Runs -/

/-- The state an outcome answers, if it answers one. -/
def outcomeState : Result → Option State
  | .next s => some s
  | .fault _ => none
  | .refused _ => none

/-- The machine with a line presented as the host's next. -/
def present (l : CycleIn) (s : State) : State := { s with lines := l :: s.lines }

/-- One cycle in which the host presents the given line. -/
def feed (l : CycleIn) (s : State) : Result := step (present l s)

/-- The cycles of a list of lines, in order (20_memory.md R46). "A run is a finite sequence of inputs" (00_scope.md R18). -/
def feedAll : List CycleIn → State → Result
  | [], s => .next s
  | l :: ls, s => andThen (feed l s) (feedAll ls)

/-- `n` cycles on the lines that are pending. -/
def stepN : Nat → State → Result
  | 0, s => .next s
  | n + 1, s => andThen (step s) (stepN n)

/-- The machine with a whole program pending. -/
def loadLines (ls : List CycleIn) (s : State) : State := { s with lines := ls ++ s.lines }

/-- The output tuples the host samples along a run, one after each cycle (70_reset_and_hazards.md R183, R188). -/
def observeAll : List CycleIn → State → List Outputs
  | [], _ => []
  | l :: ls, s =>
    match feed l s with
    | .next t => t.outputs :: observeAll ls t
    | .fault _ => []
    | .refused _ => []

/-- The program of a list of assembler lines. -/
def programOf (ls : List Line) : List CycleIn := ls.map lineInputs

/-! ## CRC -/

/-- `ACC(d)` (40_crc.md R81) at a setting of P_CRC_BASE: CRC.INIT, then CRC.UPD of each byte in order. -/
def accOf (base : CrcBase) (d : List Byte) : Word16 := d.foldl (crcUpdAt base) 0x0000

/-- The bytes a list of lines feeds the CRC unit by CRC.UPD, in order. -/
def crcUpdBytes (ls : List CycleIn) : List Byte :=
  ls.flatMap fun l => match decode (.crc l.crc) with
    | .crcUpd b => [b]
    | _ => []

/-- The loop body of the equivalent formulation of 40_crc.md R89, for one bit of a byte. -/
def reversedBit (r : Word16) (bit : Bool) : Word16 :=
  if r.getLsbD 15 ^^ bit then (r <<< 1) ^^^ 0x8005#16 else r <<< 1

/-- The bits of a byte, least significant first (40_crc.md R89). -/
def bitsLsbFirst (b : Byte) : List Bool :=
  [b.getLsbD 0, b.getLsbD 1, b.getLsbD 2, b.getLsbD 3, b.getLsbD 4, b.getLsbD 5, b.getLsbD 6, b.getLsbD 7]

/-- The register R of 40_crc.md R89 after a byte string: the unreflected register fed each byte least significant bit
first. -/
def reversedCrc (d : List Byte) : Word16 := (d.flatMap bitsLsbFirst).foldl reversedBit 0x0000

/-! ## FENC -/

/-- The bytes FENC produces along a run, in cycle order (41_frame_encoder.md R106). -/
def collectFenc : List CycleIn → State → List Byte
  | [], _ => []
  | l :: ls, s =>
    match feed l s with
    | .next t => fencBytes t.fenc ++ collectFenc ls t
    | .fault _ => []
    | .refused _ => []

/-- The two characters of a payload byte (41_frame_encoder.md R100, R105). -/
def hexPair (b : Byte) : List Byte := [hexchar (hiNibble b), hexchar (loNibble b)]

/-- The closed form of `ENC(t, p)` (41_frame_encoder.md R105). -/
def encFrame (t p : List Byte) : List Byte := t ++ [0x28] ++ p.flatMap hexPair ++ [0x29, 0x0A]

/-- A target ENC takes: at least one character, every one legal (41_frame_encoder.md R105). -/
def legalTarget (t : List Byte) : Bool := !t.isEmpty && t.all legalTargetChar

/-! ## FDEC -/

/-- What `DEC` answers (42_frame_decoder.md R134). `incomplete` is no outcome: FDEC is still in SCAN or BODY. -/
inductive DecOutcome where
  | ok (status : Byte) (data : List Byte)
  | err (code : ErrCode)
  | incomplete
  deriving DecidableEq, Repr

/-- The bytes FDEC strobes along a run, in order; provisional until DONE (42_frame_decoder.md R131). -/
def collectFdec : List CycleIn → State → List Byte
  | [], _ => []
  | l :: ls, s =>
    match feed l s with
    | .next t => fdecStrobe t.fdec ++ collectFdec ls t
    | .fault _ => []
    | .refused _ => []

/-- The outcome of a frame from FDEC's registers and the bytes strobed since START (42_frame_decoder.md R132, R134). -/
def decOutcome (d : FdecRegs) (strobed : List Byte) : DecOutcome :=
  match d.phase with
  | .done => .ok d.status strobed
  | .error => .err d.err
  | .scan => .incomplete
  | .body => .incomplete

/-- `DEC(s)` (42_frame_decoder.md R134): the outcome after START and CHR over the text. -/
def decText (text : List Byte) (s : State) : Option DecOutcome :=
  (outcomeState (feedAll (programOf (fdecLineLines text)) s)).map
    fun t => decOutcome t.fdec (collectFdec (programOf (fdecLineLines text)) s)

/-- The leftmost match of the regular expression of 42_frame_decoder.md R123, two hex digits, `(`, characters other
than `)`, `)`: the two digits and the body. -/
def regexSearch : List Byte → Option (Byte × Byte × List Byte)
  | [] => none
  | h :: t =>
    match t with
    | l :: c :: rest =>
      if ishex h && ishex l && c == 0x28#8 && rest.contains 0x29#8 then
        some (h, l, rest.takeWhile (fun b => b != 0x29#8))
      else regexSearch t
    | _ => none

/-- Strict hex decoding: an even-length string of hex digits, high nibble first (42_frame_decoder.md R123). -/
def hexDecode : List Byte → Option (List Byte)
  | [] => some []
  | [_] => none
  | a :: b :: r =>
    if ishex a && ishex b then (hexDecode r).map (fun d => ofNibbles (hexval a) (hexval b) :: d) else none

/-- What 42_frame_decoder.md R123 says DEC answers on a newline-terminated text: search, then decode the body. -/
def decReference (text : List Byte) : DecOutcome :=
  match regexSearch text with
  | none => .err .parse
  | some (h, l, body) =>
    match hexDecode body with
    | none => .err .hex
    | some d => .ok (ofNibbles (hexval h) (hexval l)) d

/-! ## The invariant of the machine -/

/-- FENC's registers as every operation and reset leave them: unused byte registers read 0x00 (10_state.md R24), an error
goes with no byte (41_frame_encoder.md R95), and only FENC's codes stand in `fenc_err` (60_exceptions.md R156). -/
abbrev fencShape (f : FencRegs) : Prop :=
  f.len.toNat ≤ 2 ∧ (f.len.toNat < 2 → f.b1 = 0x00) ∧ (f.len.toNat = 0 → f.b0 = 0x00) ∧
    (f.err ≠ .none → f.len = 0 ∧ f.rsvd = false) ∧ (f.rsvd = true → f.len = 0 ∧ f.err = .none) ∧
    (f.err = .none ∨ f.err = .encSeq ∨ f.err = .encChar)

/-- FDEC's registers in every reachable state: "fdec_err != 0 iff fdec_phase = ERROR" (10_state.md R28) with FDEC's codes
only (60_exceptions.md R156); the status and the body registers are clear in SCAN (42_frame_decoder.md R133); DONE is
reached with a whole, well-formed body (R120); a strobe stands only in BODY, with no nibble pending (R120); a history
place that holds no character reads 0x00 (R117, R119). -/
abbrev fdecShape (d : FdecRegs) : Prop :=
  (d.err ≠ .none ↔ d.phase = .error) ∧ (d.err = .none ∨ d.err = .parse ∨ d.err = .hex) ∧
    (d.phase = .scan → d.status = 0x00 ∧ d.nibv = false ∧ d.bad = false ∧ d.byte = 0x00) ∧
    (d.phase = .done → d.nibv = false ∧ d.bad = false) ∧ (d.bvalid = true → d.phase = .body ∧ d.nibv = false) ∧
    (d.nhist = 0 → d.prev1 = 0x00) ∧ (d.nhist ≠ 2 → d.prev2 = 0x00) ∧ (d.phase ≠ .scan → d.phase ≠ .error → d.nhist = 2)

/-- The invariant of the machine: the shapes of FENC's and FDEC's registers, ZAT's sample with ZAT's codes and 0x0000 on
an error (43_address_translator.md R148), and a fault log whose entries name a past cycle and a code of their unit
(60_exceptions.md R155, R168). -/
def machineInv (s : State) : Prop :=
  fencShape s.fenc ∧ fdecShape s.fdec ∧
    (∀ z, s.zat = some z → (z.err = .none ∨ z.err.unit = some .zat) ∧ (z.err ≠ .none → z.addr = 0x0000)) ∧
    (∀ r ∈ s.log, 1 ≤ r.cycle ∧ r.cycle ≤ s.cycle ∧ r.code.unit = some r.unit)

/-! ## Host duties -/

/-- "the program raises no error", said over the fault log (60_exceptions.md R168). -/
def noErrorRaised (s : State) : Prop := s.log = []

/-- FDEC's input contract (70_reset_and_hazards.md R180): the characters end with their first 0x0A, and none at the
front is at or below 0x20. -/
def replyContract (text : List Byte) : Bool :=
  text.getLast? == some chLF && !text.dropLast.contains chLF &&
    (match text.head? with
      | some c => (0x20#8).ult c
      | none => false)

/-- The address the host may use: none when `at_err != 0` (70_reset_and_hazards.md R181). -/
def usableAddr (z : ZatOut) : Option Word16 := if z.err = .none then some z.addr else none

/-- The data the host may use: a failed frame's bytes are discarded (42_frame_decoder.md R131). -/
def usableReply : DecOutcome → Option (Byte × List Byte)
  | .ok status data => some (status, data)
  | .err _ => none
  | .incomplete => none

/-- No code raised by FENC along a run: each operation's `fenc_err` is sampled after its cycle (R185). -/
def fencClean : List CycleIn → State → Bool
  | [], _ => true
  | l :: ls, s =>
    match feed l s with
    | .next t => t.fenc.err == .none && fencClean ls t
    | .fault _ => false
    | .refused _ => false

/-- The frame the host may send after a run from IDLE: none where FENC reported an error or the frame was aborted or
reset, or is not closed (70_reset_and_hazards.md R179, R181). -/
def sendableFrame (ls : List CycleIn) (s : State) : Option (List Byte) :=
  match outcomeState (feedAll ls s) with
  | none => none
  | some t =>
    if s.fenc.phase = .idle ∧ t.fenc.phase = .idle ∧ fencClean ls s = true ∧
        ls.all (fun l => !l.rst && decide (decode (.fenc l.fenc) ≠ .fencAbort)) = true
    then some (collectFenc ls s) else none

end Sys2Proof.Machine
end

