-- ==== Sys2Proof/Certificates/Slice0/Obligations.lean ====
section
/-! DEFINITION. The statements about the KPC model, for the provers. Each is stated in the terms of Safety.lean and of the machine itself. -/

open Sys2Proof Sys2Proof.Machine

/-! ## Primitives and encoding -/

/-- The primitives of 00_scope.md R12, in plain arithmetic: which characters are hex digits, their values, the lowercase
digit of a nibble, and the reversal of 16 bits. -/
def Obligations.PrimitivesAgreeWithArithmetic : Prop :=
  (∀ c : Byte, ishex c = true ↔
    (0x30 ≤ c.toNat ∧ c.toNat ≤ 0x39) ∨ (0x41 ≤ c.toNat ∧ c.toNat ≤ 0x46) ∨ (0x61 ≤ c.toNat ∧ c.toNat ≤ 0x66)) ∧
  (∀ c : Byte, ishex c = true → (hexval c).toNat =
    if c.toNat ≤ 0x39 then c.toNat - 0x30 else if c.toNat ≤ 0x46 then c.toNat - 0x41 + 10 else c.toNat - 0x61 + 10) ∧
  (∀ n : Nibble, (hexchar n).toNat = if n.toNat ≤ 9 then 0x30 + n.toNat else 0x61 + (n.toNat - 10)) ∧
  (∀ (x : Word16) (i : Nat), i < 16 → (rev16 x).getLsbD i = x.getLsbD (15 - i))

/-- Decoding the vector the assembler writes for an operation gives the operation back, for every operation and every
operand (30_encoding.md R57, R59, R61, R62, R68). -/
def Obligations.DecodeOfEncodeIsTheOperation : Prop :=
  ∀ i : Instr, decode (encode i) = i

/-- Every value of every vector decodes to exactly one row of the opcode table, the row of the decoded operation, and
stays on its port (30_encoding.md R65). -/
def Obligations.EveryVectorHasExactlyOneRow : Prop :=
  ∀ w : PortWord, (decode w).unit = w.unit ∧
    ∃ r ∈ opcodeTable, r.mnemonic = (decode w).mnemonic ∧ r.matchesWord w = true ∧
      ∀ q ∈ opcodeTable, q.matchesWord w = true → q = r

/-- Two vectors that differ only in ignored bits are the same operation; the op codes with a data field are CRC 0b10,
FENC 0b001 and 0b011, and FDEC 0b10 (30_encoding.md R57, R59, R61, R64). -/
def Obligations.IgnoredBitsDoNotSelectTheOperation : Prop :=
  (∀ v w : BitVec 10, v.extractLsb' 8 2 = w.extractLsb' 8 2 → v.extractLsb' 8 2 ≠ 0b10#2 →
    decode (.crc v) = decode (.crc w) ∧ decode (.fdec v) = decode (.fdec w)) ∧
  (∀ v w : BitVec 11, v.extractLsb' 8 3 = w.extractLsb' 8 3 → v.extractLsb' 8 3 ≠ 0b001#3 →
    v.extractLsb' 8 3 ≠ 0b011#3 → decode (.fenc v) = decode (.fenc w))

/-- A few of the words the spec's own examples give (95_test_vectors.md sections 1, 2, 4, 5), decoded on their ports. -/
def Obligations.SpecExampleWordsDecode : Prop :=
  decode (.crc 0x207) = .crcUpd 0x07 ∧ decode (.crc 0x1FF) = .crcInit ∧ decode (.crc 0x3AB) = .crcRsvd3 ∧
  decode (.fenc 0x165) = .fencTgt 0x65 ∧ decode (.fenc 0x31E) = .fencHex 0x1E ∧ decode (.fenc 0x6AA) = .fencRsvd6 ∧
  decode (.fdec 0x228) = .fdecChr 0x28 ∧ decode (.fdec 0x100) = .fdecStart ∧
  decode (.zat 0x02030024) = .zat 2 3 36

/-- A line of operations for different units drives each named port with its operation's vector and leaves every other
sequential unit at NOP (30_encoding.md R67, R68). The last clause is the model's choice (log 5): on a line that names no
`zat` ZAT's inputs are whatever the host drives (30_encoding.md R70, 43_address_translator.md R140), and the model
presents none. -/
def Obligations.WellFormedLinePresentsItsOperations : Prop :=
  ∀ l : List AsmOp, (Line.ops l).wellFormed = true →
    (lineInputs (.ops l)).rst = false ∧
    (∀ o ∈ l, drive (asmWord o) (lineInputs (.ops l)) = lineInputs (.ops l)) ∧
    ((∀ o ∈ l, o.unit ≠ .crc) → (lineInputs (.ops l)).crc = 0) ∧
    ((∀ o ∈ l, o.unit ≠ .fenc) → (lineInputs (.ops l)).fenc = 0) ∧
    ((∀ o ∈ l, o.unit ≠ .fdec) → (lineInputs (.ops l)).fdec = 0) ∧
    ((∀ o ∈ l, o.unit ≠ .zat) → (lineInputs (.ops l)).zat = none)

/-- The error codes' numbers, pairwise different and below 8, and the unit of each (60_exceptions.md section 1). -/
def Obligations.ErrorCodesHaveTheirNumbers : Prop :=
  ErrCode.none.code = 0 ∧ ErrCode.zone.code = 1 ∧ ErrCode.slot.code = 2 ∧ ErrCode.addrOvf.code = 3 ∧
  ErrCode.parse.code = 4 ∧ ErrCode.hex.code = 5 ∧ ErrCode.encSeq.code = 6 ∧ ErrCode.encChar.code = 7 ∧
  (∀ e f : ErrCode, e.code = f.code → e = f) ∧
  (∀ e : ErrCode, (e.unit = some .zat ↔ e = .zone ∨ e = .slot ∨ e = .addrOvf) ∧
    (e.unit = some .fdec ↔ e = .parse ∨ e = .hex) ∧ (e.unit = some .fenc ↔ e = .encSeq ∨ e = .encChar))

/-! ## CRC unit -/

/-- CRC.NOP, CRC.INIT and the reserved op code (40_crc.md R76, R77, R80): every register but the ones named keeps its
value. -/
def Obligations.CrcNopInitReservedResults : Prop :=
  ∀ s : State,
    exec .crcNop s = .next { s with crc := { acc := s.crc.acc, rsvd := false } } ∧
    exec .crcRsvd3 s = .next { s with crc := { acc := s.crc.acc, rsvd := true } } ∧
    ∃ t, exec .crcInit s = .next t ∧ t = { s with crc := { acc := 0x0000, rsvd := false } } ∧
      t.outputs.crcArc = 0x0000 ∧ t.outputs.crcField = 0x0000 ∧ t.outputs.crcB0 = 0x00 ∧ t.outputs.crcB1 = 0x00 ∧
      exec .crcInit t = .next t

/-- CRC.UPD at ARC_REFLECTED (40_crc.md R78): eight turns of the reflected loop on the accumulator with the byte in its
low half; a zero byte on a zero accumulator gives zero. -/
def Obligations.CrcUpdReflectedResult : Prop :=
  (∀ (s : State) (b : Byte), s.config.crcBase = .arcReflected →
    exec (.crcUpd b) s = .next { s with
      crc := { acc := (fun x : Word16 => if x.getLsbD 0 = true then (x >>> 1) ^^^ 0xA001#16 else x >>> 1)^[8]
                  (s.crc.acc ^^^ b.setWidth 16),
               rsvd := false } }) ∧
  crcUpdAt .arcReflected 0x0000 0x00 = 0x0000 ∧ rev16 0x8005 = 0xA001

/-- CRC.UPD at LITERAL_UNREFLECTED (40_crc.md R79): eight turns of the unreflected loop on the accumulator with the byte
in its high half. -/
def Obligations.CrcUpdLiteralResult : Prop :=
  ∀ (s : State) (b : Byte), s.config.crcBase = .literalUnreflected →
    exec (.crcUpd b) s = .next { s with
      crc := { acc := (fun x : Word16 => if x.getLsbD 15 = true then (x <<< 1) ^^^ 0x8005#16 else x <<< 1)^[8]
                  (s.crc.acc ^^^ (b.setWidth 16 <<< 8)),
               rsvd := false } }

/-- The CRC outputs bit by bit (40_crc.md R82, R83): `crc_arc` is the accumulator, `crc_field` its 16-bit reversal,
`crc_b0` and `crc_b1` the field's low and high byte. -/
def Obligations.CrcOutputsAreTheReversedField : Prop :=
  ∀ s : State, s.outputs.crcArc = s.crc.acc ∧
    (∀ i, i < 16 → s.outputs.crcField.getLsbD i = s.crc.acc.getLsbD (15 - i)) ∧
    (∀ i, i < 8 → s.outputs.crcB0.getLsbD i = s.outputs.crcField.getLsbD i ∧
      s.outputs.crcB1.getLsbD i = s.outputs.crcField.getLsbD (8 + i)) ∧
    s.outputs.crcB0 = s.outputs.crcField.extractLsb' 0 8 ∧ s.outputs.crcB1 = s.outputs.crcField.extractLsb' 8 8

/-- The equivalent formulation of 40_crc.md R89: at ARC_REFLECTED, after INIT and UPD of each byte, `crc_field` is the
unreflected register with polynomial 0x8005 fed each byte least significant bit first. -/
def Obligations.ReflectedCrcFieldIsTheUnreflectedRegister : Prop :=
  ∀ (s : State) (d : List Byte), s.config.crcBase = .arcReflected →
    ∃ t, feedAll (programOf (crcBytesLines d)) s = .next t ∧ t.outputs.crcField = reversedCrc d

/-- The accumulator after any lines without reset and CRC.INIT is the fold of CRC.UPD over the bytes they feed, whatever
NOPs, reserved codes and other units' operations stand between (40_crc.md section 3). -/
def Obligations.CrcDependsOnlyOnItsBytes : Prop :=
  ∀ (s : State) (ls : List CycleIn), (∀ l ∈ ls, l.rst = false ∧ decode (.crc l.crc) ≠ .crcInit) →
    ∃ t, feedAll ls s = .next t ∧ t.crc.acc = (crcUpdBytes ls).foldl (crcUpdAt s.config.crcBase) s.crc.acc

/-- Linearity over GF(2): for strings of equal length, at either setting, the accumulator after their exclusive or is the
exclusive or of the accumulators. At ARC_REFLECTED it is a corner case the spec gives (40_crc.md section 5, R90); at
LITERAL_UNREFLECTED it follows from the operations themselves (40_crc.md section 2, R77 and R79). -/
def Obligations.CrcIsLinear : Prop :=
  ∀ (s : State) (a b : List Byte), a.length = b.length →
    ∃ ta tb tx, feedAll (programOf (crcBytesLines a)) s = .next ta ∧ feedAll (programOf (crcBytesLines b)) s = .next tb ∧
      feedAll (programOf (crcBytesLines (List.zipWith (fun x y => x ^^^ y) a b))) s = .next tx ∧
      tx.crc.acc = ta.crc.acc ^^^ tb.crc.acc

/-- Residue (40_crc.md section 5): going on with the unreversed CRC's two bytes, low byte first, leaves the accumulator 0. -/
def Obligations.CrcResidueIsZero : Prop :=
  ∀ (s : State) (d : List Byte), s.config.crcBase = .arcReflected →
    ∃ t u, feedAll (programOf (crcBytesLines d)) s = .next t ∧
      feedAll (programOf (crcBytesLines (d ++ [t.outputs.crcArc.extractLsb' 0 8, t.outputs.crcArc.extractLsb' 8 8]))) s
        = .next u ∧
      u.crc.acc = 0x0000

/-! ## Frame encoder

A statement about an operation that raises a code says what becomes of every register and of every other field but the
fault log, which is the model's bookkeeping: RaisedCodesAreLogged and OperationTouchesOnlyItsUnit say what the log takes. -/

/-- FENC.NOP, FENC.ABORT and the two reserved op codes (41_frame_encoder.md R97, R102, R104). -/
def Obligations.FencNopAbortReservedResults : Prop :=
  ∀ s : State,
    exec .fencNop s = .next { s with
      fenc := { phase := s.fenc.phase, len := 0, b0 := 0x00, b1 := 0x00, err := .none, rsvd := false } } ∧
    exec .fencAbort s = .next { s with
      fenc := { phase := .idle, len := 0, b0 := 0x00, b1 := 0x00, err := .none, rsvd := false } } ∧
    exec .fencRsvd6 s = .next { s with
      fenc := { phase := s.fenc.phase, len := 0, b0 := 0x00, b1 := 0x00, err := .none, rsvd := true } } ∧
    exec .fencRsvd7 s = .next { s with
      fenc := { phase := s.fenc.phase, len := 0, b0 := 0x00, b1 := 0x00, err := .none, rsvd := true } }

/-- FENC.TGT (41_frame_encoder.md R98, R103): in BODY it raises E_ENC_SEQ whatever the character; elsewhere an illegal
character raises E_ENC_CHAR and a legal one is emitted. The source's targets are made of legal characters. -/
def Obligations.FencTargetResult : Prop :=
  (∀ c : Byte, legalTargetChar c = true ↔
    0x21 ≤ c.toNat ∧ c.toNat ≤ 0x7E ∧ c.toNat ≠ 0x28 ∧ c.toNat ≠ 0x29) ∧
  (∀ (s : State) (c : Byte), s.fenc.phase = .body →
    ∃ t, exec (.fencTgt c) s = .next t ∧ { t with log := s.log } = { s with
      fenc := { phase := .body, len := 0, b0 := 0x00, b1 := 0x00, err := .encSeq, rsvd := false } }) ∧
  (∀ (s : State) (c : Byte), s.fenc.phase ≠ .body → legalTargetChar c = false →
    ∃ t, exec (.fencTgt c) s = .next t ∧ { t with log := s.log } = { s with
      fenc := { phase := s.fenc.phase, len := 0, b0 := 0x00, b1 := 0x00, err := .encChar, rsvd := false } }) ∧
  (∀ (s : State) (c : Byte), s.fenc.phase ≠ .body → legalTargetChar c = true →
    exec (.fencTgt c) s = .next { s with
      fenc := { phase := .target, len := 1, b0 := c, b1 := 0x00, err := .none, rsvd := false } }) ∧
  (∀ t ∈ [[0x65, 0x3A, 0x74], [0x62, 0x3A, 0x64], [0x65, 0x3A, 0x70, 0x3A, 0x73], [0x62, 0x3A, 0x66], [0x62, 0x3A, 0x61]],
    legalTarget t = true)

/-- FENC.OPEN (41_frame_encoder.md R99): `(` from TARGET, E_ENC_SEQ from IDLE and BODY with the phase unchanged. -/
def Obligations.FencOpenResult : Prop :=
  (∀ s : State, s.fenc.phase = .target →
    exec .fencOpen s = .next { s with
      fenc := { phase := .body, len := 1, b0 := 0x28, b1 := 0x00, err := .none, rsvd := false } }) ∧
  (∀ s : State, s.fenc.phase ≠ .target →
    ∃ t, exec .fencOpen s = .next t ∧ { t with log := s.log } = { s with
      fenc := { phase := s.fenc.phase, len := 0, b0 := 0x00, b1 := 0x00, err := .encSeq, rsvd := false } })

/-- FENC.HEX (41_frame_encoder.md R100): in BODY the two lowercase digits of the byte, high nibble first, for every byte
value; elsewhere E_ENC_SEQ with the phase unchanged. -/
def Obligations.FencHexResult : Prop :=
  (∀ (s : State) (b : Byte), s.fenc.phase = .body →
    ∃ b0 b1 : Byte,
      b0.toNat = (if b.toNat / 16 ≤ 9 then 0x30 + b.toNat / 16 else 0x61 + (b.toNat / 16 - 10)) ∧
      b1.toNat = (if b.toNat % 16 ≤ 9 then 0x30 + b.toNat % 16 else 0x61 + (b.toNat % 16 - 10)) ∧
      exec (.fencHex b) s = .next { s with
        fenc := { phase := .body, len := 2, b0 := b0, b1 := b1, err := .none, rsvd := false } }) ∧
  (∀ (s : State) (b : Byte), s.fenc.phase ≠ .body →
    ∃ t, exec (.fencHex b) s = .next t ∧ { t with log := s.log } = { s with
      fenc := { phase := s.fenc.phase, len := 0, b0 := 0x00, b1 := 0x00, err := .encSeq, rsvd := false } })

/-- FENC.CLOSE (41_frame_encoder.md R101): `)` and `\n` from BODY, back to IDLE; elsewhere E_ENC_SEQ with the phase
unchanged. -/
def Obligations.FencCloseResult : Prop :=
  (∀ s : State, s.fenc.phase = .body →
    exec .fencClose s = .next { s with
      fenc := { phase := .idle, len := 2, b0 := 0x29, b1 := 0x0A, err := .none, rsvd := false } }) ∧
  (∀ s : State, s.fenc.phase ≠ .body →
    ∃ t, exec .fencClose s = .next t ∧ { t with log := s.log } = { s with
      fenc := { phase := s.fenc.phase, len := 0, b0 := 0x00, b1 := 0x00, err := .encSeq, rsvd := false } })

/-- `encode(target, payload)` (41_frame_encoder.md R105): from IDLE the operations TGT, OPEN, HEX and CLOSE of a legal
target and any payload emit exactly the frame, k + 2n + 3 bytes, report no error after any cycle and end in IDLE. -/
def Obligations.EncoderEmitsTheFrame : Prop :=
  ∀ (s : State) (t p : List Byte), s.fenc.phase = .idle → legalTarget t = true →
    ∃ u, feedAll (programOf (fencFrameLines t p)) s = .next u ∧ u.fenc.phase = .idle ∧
      fencClean (programOf (fencFrameLines t p)) s = true ∧
      collectFenc (programOf (fencFrameLines t p)) s =
        t ++ [0x28] ++ p.flatMap (fun b => [hexchar (b.extractLsb' 4 4), hexchar (b.extractLsb' 0 4)]) ++ [0x29, 0x0A] ∧
      (collectFenc (programOf (fencFrameLines t p)) s).length = t.length + 2 * p.length + 3

/-- The frame grammar (41_frame_encoder.md section 1): a sequence of TGT, OPEN, HEX and CLOSE from IDLE reports no error
and ends in IDLE exactly when it is a sequence of whole frames `TGT+ OPEN HEX* CLOSE` with legal target characters. -/
def Obligations.ErrorFreeEncoderRunsAreFrames : Prop :=
  ∀ (s : State) (ops : List Instr), s.fenc.phase = .idle →
    (∀ i ∈ ops, (∃ c, i = .fencTgt c) ∨ i = .fencOpen ∨ (∃ b, i = .fencHex b) ∨ i = .fencClose) →
    ∃ u, feedAll (programOf (ops.map opLine)) s = .next u ∧
      ((fencClean (programOf (ops.map opLine)) s = true ∧ u.fenc.phase = .idle) ↔
        ∃ frames : List (List Byte × List Byte), (∀ f ∈ frames, legalTarget f.1 = true) ∧
          ops = frames.flatMap fun f =>
            f.1.map Instr.fencTgt ++ [Instr.fencOpen] ++ f.2.map Instr.fencHex ++ [Instr.fencClose])

/-! ## Frame decoder -/

/-- FDEC.NOP, FDEC.START and the reserved op code (42_frame_decoder.md R116, R117, R128). START leaves exactly the reset
values. -/
def Obligations.FdecNopStartReservedResults : Prop :=
  ∀ s : State,
    exec .fdecNop s = .next { s with fdec := { s.fdec with bvalid := false, rsvd := false } } ∧
    exec .fdecRsvd3 s = .next { s with fdec := { s.fdec with bvalid := false, rsvd := true } } ∧
    exec .fdecStart s = .next { s with
      fdec := { phase := .scan, nhist := 0, prev2 := 0x00, prev1 := 0x00, status := 0x00, nibv := false, nib := 0,
                bad := false, bvalid := false, byte := 0x00, err := .none, rsvd := false } } ∧
    exec .fdecStart s = .next { s with fdec := State.reset.fdec }

/-- FDEC.CHR in phase SCAN (42_frame_decoder.md R119): `(` after two hex digits opens the body with the status
16 * first + second; LF raises E_PARSE; anything else enters the history. -/
def Obligations.FdecScanResult : Prop :=
  (∀ s : State, s.fdec.phase = .scan → s.fdec.nhist = 2 → ishex s.fdec.prev2 = true → ishex s.fdec.prev1 = true →
    ∃ v : Byte, v.toNat = 16 * (hexval s.fdec.prev2).toNat + (hexval s.fdec.prev1).toNat ∧
      exec (.fdecChr 0x28) s = .next { s with
        fdec := { s.fdec with bvalid := false, rsvd := false, status := v, phase := .body, nibv := false, bad := false } }) ∧
  (∀ s : State, s.fdec.phase = .scan →
    ∃ t, exec (.fdecChr 0x0A) s = .next t ∧ { t with log := s.log } = { s with
      fdec := { s.fdec with bvalid := false, rsvd := false, phase := .error, err := .parse } }) ∧
  (∀ (s : State) (c : Byte), s.fdec.phase = .scan → c ≠ 0x0A →
    ¬(c = 0x28 ∧ s.fdec.nhist = 2 ∧ ishex s.fdec.prev2 = true ∧ ishex s.fdec.prev1 = true) →
    ∃ k : Fin 3, k.val = min (s.fdec.nhist.val + 1) 2 ∧
      exec (.fdecChr c) s = .next { s with
        fdec := { s.fdec with bvalid := false, rsvd := false, prev2 := s.fdec.prev1, prev1 := c, nhist := k } })

/-- FDEC.CHR in phase BODY (42_frame_decoder.md R120): `)` ends in DONE or raises E_HEX; LF raises E_PARSE whatever the
body held; after a bad character nothing more is decoded; hex digits pair up, high nibble first; any other character
marks the body bad. -/
def Obligations.FdecBodyResult : Prop :=
  (∀ s : State, s.fdec.phase = .body → s.fdec.bad = false → s.fdec.nibv = false →
    exec (.fdecChr 0x29) s = .next { s with fdec := { s.fdec with bvalid := false, rsvd := false, phase := .done } }) ∧
  (∀ s : State, s.fdec.phase = .body → (s.fdec.bad = true ∨ s.fdec.nibv = true) →
    ∃ t, exec (.fdecChr 0x29) s = .next t ∧ { t with log := s.log } = { s with
      fdec := { s.fdec with bvalid := false, rsvd := false, phase := .error, err := .hex } }) ∧
  (∀ s : State, s.fdec.phase = .body →
    ∃ t, exec (.fdecChr 0x0A) s = .next t ∧ { t with log := s.log } = { s with
      fdec := { s.fdec with bvalid := false, rsvd := false, phase := .error, err := .parse } }) ∧
  (∀ (s : State) (c : Byte), s.fdec.phase = .body → c ≠ 0x29 → c ≠ 0x0A → s.fdec.bad = true →
    exec (.fdecChr c) s = .next { s with fdec := { s.fdec with bvalid := false, rsvd := false } }) ∧
  (∀ (s : State) (c : Byte), s.fdec.phase = .body → s.fdec.bad = false → ishex c = true → s.fdec.nibv = false →
    exec (.fdecChr c) s = .next { s with
      fdec := { s.fdec with bvalid := false, rsvd := false, nib := hexval c, nibv := true } }) ∧
  (∀ (s : State) (c : Byte), s.fdec.phase = .body → s.fdec.bad = false → ishex c = true → s.fdec.nibv = true →
    ∃ v : Byte, v.toNat = 16 * s.fdec.nib.toNat + (hexval c).toNat ∧
      exec (.fdecChr c) s = .next { s with
        fdec := { s.fdec with bvalid := true, rsvd := false, byte := v, nibv := false } }) ∧
  (∀ (s : State) (c : Byte), s.fdec.phase = .body → c ≠ 0x29 → c ≠ 0x0A → s.fdec.bad = false → ishex c = false →
    exec (.fdecChr c) s = .next { s with fdec := { s.fdec with bvalid := false, rsvd := false, bad := true } })

/-- FDEC.CHR in phases DONE and ERROR (42_frame_decoder.md R121, R122): the pulses are cleared, nothing else changes. -/
def Obligations.FdecIgnoresCharactersAfterTheEnd : Prop :=
  ∀ (s : State) (c : Byte), (s.fdec.phase = .done ∨ s.fdec.phase = .error) →
    exec (.fdecChr c) s = .next { s with fdec := { s.fdec with bvalid := false, rsvd := false } }

/-- Phase ERROR is sticky (42_frame_decoder.md R118): without reset and START a cycle keeps the phase and the code; only
CHR enters ERROR, with code E_PARSE = 4 or E_HEX = 5; leaving ERROR clears the code. -/
def Obligations.FdecErrorIsSticky : Prop :=
  ∀ (s : State) (l : CycleIn), ∃ t, feed l s = .next t ∧
    (s.fdec.phase = .error → l.rst = false → decode (.fdec l.fdec) ≠ .fdecStart →
      t.fdec.phase = .error ∧ t.fdec.err = s.fdec.err) ∧
    (s.fdec.phase ≠ .error → t.fdec.phase = .error →
      l.rst = false ∧ (∃ c, decode (.fdec l.fdec) = .fdecChr c) ∧ (t.fdec.err.code = 4 ∨ t.fdec.err.code = 5)) ∧
    (s.fdec.phase = .error → t.fdec.phase ≠ .error → t.fdec.err.code = 0)

/-- FDEC's language (42_frame_decoder.md R123): over a text that ends with its first LF, START and CHR of every character
answer what the leftmost match of the regular expression and strict hex decoding of its body answer. -/
def Obligations.DecoderMeetsTheRegularExpression : Prop :=
  ∀ (s : State) (text : List Byte), (0x0A#8) ∉ text →
    decText (text ++ [0x0A]) s = some (decReference (text ++ [0x0A]))

/-- The round trip (42_frame_decoder.md R135): for a legal target and any payload, decoding the encoded frame answers the
payload, under the value of the target's last two characters, if there are two and both are hex digits, and E_PARSE
otherwise: on a shorter target, and on one such as `e:t`. -/
def Obligations.DecodingAnEncodedFrame : Prop :=
  ∀ (s u : State) (t p : List Byte), s.fenc.phase = .idle → legalTarget t = true →
    decText (collectFenc (programOf (fencFrameLines t p)) s) u = some
      (match t.reverse with
        | second :: first :: _ =>
          if ishex first && ishex second then .ok (ofNibbles (hexval first) (hexval second)) p else .err .parse
        | _ => .err .parse)

/-- Leading noise (42_frame_decoder.md section 3): characters that are no hex digit, not `(` and not LF, before a text,
leave its outcome as it is. -/
def Obligations.LeadingNoiseIsIgnored : Prop :=
  ∀ (s : State) (noise text : List Byte), (∀ c ∈ noise, ishex c = false ∧ c ≠ 0x28 ∧ c ≠ 0x0A) →
    decText (noise ++ text) s = decText text s

/-- Once a frame has an outcome, further characters do not change it (42_frame_decoder.md section 2, R121 and R122 as
they act on a whole reply). -/
def Obligations.OutcomeIsFinal : Prop :=
  ∀ (s : State) (text more : List Byte) (o : DecOutcome), decText text s = some o → o ≠ .incomplete →
    decText (text ++ more) s = some o

/-- The FDEC flags (42_frame_decoder.md section 4): `fdec_done` exactly in DONE, `fdec_status_err` exactly in DONE with a
status other than 0. -/
def Obligations.FdecFlagsFollowPhaseAndStatus : Prop :=
  ∀ s : State, (s.outputs.fdecDone = true ↔ s.fdec.phase = .done) ∧
    (s.outputs.fdecStatusErr = true ↔ s.fdec.phase = .done ∧ s.fdec.status ≠ 0x00) ∧ s.outputs.fdecStatus = s.fdec.status

/-! ## Address translator -/

/-- ZAT.CALC in plain arithmetic (43_address_translator.md R141, R142, R145, R146, R147, R148): the outputs are a function
of the inputs alone, whatever the state, and no register is written; of the model's own fields only ZAT's sample and the
fault log may change. -/
def Obligations.ZatResult : Prop :=
  ∀ (zone slot : Byte) (offset : Word16), ∃ out : ZatOut,
    (zone = 2 → slot.toNat ≤ 15 → offset.toNat / 32 ≤ 255 →
      out.addr.toNat = offset.toNat / 32 * 256 + slot.toNat * 8 + offset.toNat / 4 % 8 ∧ out.err = .none) ∧
    (zone = 2 → 15 < slot.toNat → out.addr = 0x0000 ∧ out.err = .slot) ∧
    (zone = 2 → slot.toNat ≤ 15 → 255 < offset.toNat / 32 → out.addr = 0x0000 ∧ out.err = .addrOvf) ∧
    (zone = 0 → out.addr.toNat = offset.toNat / 32 * 8 + offset.toNat / 4 % 8 ∧ out.err = .none) ∧
    (zone ≠ 0 → zone ≠ 2 → out.addr = 0x0000 ∧ out.err = .zone) ∧
    ∀ s : State, ∃ t, exec (.zat zone slot offset) s = .next t ∧ t.outputs.atAddr = some out.addr ∧
      t.outputs.atErr = some out.err.code ∧ { t with zat := s.zat, log := s.log } = s

/-- The bit fields of a successful ZAT result (43_address_translator.md R149). No code is raised. -/
def Obligations.ZatBitFields : Prop :=
  (∀ (s : State) (slot : Byte) (offset : Word16), slot.toNat ≤ 15 → offset.toNat < 8192 →
    ∃ t, exec (.zat 2 slot offset) s = .next t ∧
      t.outputs.atAddr = some (offset.extractLsb' 5 8 ++ 0#1 ++ slot.extractLsb' 0 4 ++ offset.extractLsb' 2 3) ∧
      t.outputs.atErr = some 0 ∧ { t with zat := s.zat } = s) ∧
  (∀ (s : State) (slot : Byte) (offset : Word16),
    ∃ t, exec (.zat 0 slot offset) s = .next t ∧ t.outputs.atAddr = some (0#2 ++ offset.extractLsb' 2 14) ∧
      t.outputs.atErr = some 0 ∧ { t with zat := s.zat } = s)

/-- A zone-2 address names one slot and one 4-byte word (20_memory.md section 3, 43_address_translator.md section 2): two
accepted inputs share an address exactly when they share the slot and the word of the offset. -/
def Obligations.ZatAddressNamesOneWord : Prop :=
  ∀ (s : State) (k k' : Byte) (o o' : Word16), k.toNat ≤ 15 → k'.toNat ≤ 15 → o.toNat < 8192 → o'.toNat < 8192 →
    ∃ t u : State, exec (.zat 2 k o) s = .next t ∧ exec (.zat 2 k' o') s = .next u ∧
      (t.outputs.atAddr = u.outputs.atAddr ↔ k = k' ∧ o.toNat / 4 = o'.toNat / 4)

/-! ## The whole machine -/

/-- The state after reset (10_state.md R33): every register, and the derived outputs. -/
def Obligations.ResetRegisterValues : Prop :=
  State.reset.crc = { acc := 0x0000, rsvd := false } ∧
  State.reset.fenc = { phase := .idle, len := 0, b0 := 0x00, b1 := 0x00, err := .none, rsvd := false } ∧
  State.reset.fdec =
    { phase := .scan, nhist := 0, prev2 := 0x00, prev1 := 0x00, status := 0x00, nibv := false, nib := 0, bad := false,
      bvalid := false, byte := 0x00, err := .none, rsvd := false } ∧
  State.reset.outputs.crcArc = 0x0000 ∧ State.reset.outputs.crcField = 0x0000 ∧ State.reset.outputs.crcB0 = 0x00 ∧
  State.reset.outputs.crcB1 = 0x00 ∧ State.reset.outputs.fencPhase = 0b00 ∧ State.reset.outputs.fencErr = 0 ∧
  State.reset.outputs.fdecPhase = 0b00 ∧ State.reset.outputs.fdecErr = 0 ∧
  State.reset.outputs.fdecDone = false ∧ State.reset.outputs.fdecStatusErr = false

/-- A cycle with `rst = 1` (70_reset_and_hazards.md R175, R176): whatever the state and the operations presented, every
register takes its reset value; ZAT's outputs are those of the same cycle without reset. -/
def Obligations.ResetCycleOverridesOperations : Prop :=
  ∀ (s : State) (l : CycleIn), l.rst = true →
    ∃ t v, feed l s = .next t ∧ feed { l with rst := false } s = .next v ∧
      t.crc = State.reset.crc ∧ t.fenc = State.reset.fenc ∧ t.fdec = State.reset.fdec ∧
      t.outputs.atAddr = v.outputs.atAddr ∧ t.outputs.atErr = v.outputs.atErr

/-- A step runs the decoded operations: without reset, the step is `exec` of the operation each port's vector decodes to,
one unit after another (the order is the model's choice, log 14), between the start of the cycle (the line is taken, the
ZAT sample dropped, log 5) and its end (the cycle counted, log 7). -/
def Obligations.StepRunsTheDecodedOperations : Prop :=
  ∀ s : State, (nextLine s).rst = false →
    step s =
      andThen (exec (decode (.crc (nextLine s).crc)) { s with lines := s.lines.tail, zat := none }) fun a =>
      andThen (exec (decode (.fenc (nextLine s).fenc)) a) fun b =>
      andThen (exec (decode (.fdec (nextLine s).fdec)) b) fun c =>
      andThen (match (nextLine s).zat with
        | none => .next c
        | some v => exec (decode (.zat v)) c) fun d =>
      .next { d with cycle := d.cycle + 1 }

/-- Presenting one operation's vector with every other unit idle runs exactly that operation: its unit's registers (or
ZAT's sample) and the fault log are those of `exec`. -/
def Obligations.PresentedOperationRuns : Prop :=
  ∀ (i : Instr) (s : State), ∃ t u, feed (drive (encode i) idleLine) s = .next t ∧ exec i s = .next u ∧
    t.log = u.log ∧ (i.unit = .crc → t.crc = u.crc) ∧ (i.unit = .fenc → t.fenc = u.fenc) ∧
    (i.unit = .fdec → t.fdec = u.fdec) ∧ (i.unit = .zat → t.zat = u.zat)

/-- Every operation completes and touches only its own unit: the other units' registers, ZAT's sample (for a sequential
operation), the parameter, the pending lines and the cycle count keep their values, and at most one code is logged
(00_scope.md sections 1 and 5, 60_exceptions.md section 2). -/
def Obligations.OperationTouchesOnlyItsUnit : Prop :=
  ∀ (i : Instr) (s : State), ∃ t, exec i s = .next t ∧
    (i.unit ≠ .crc → t.crc = s.crc) ∧ (i.unit ≠ .fenc → t.fenc = s.fenc) ∧ (i.unit ≠ .fdec → t.fdec = s.fdec) ∧
    (i.unit ≠ .zat → t.zat = s.zat) ∧ t.config = s.config ∧ t.lines = s.lines ∧ t.cycle = s.cycle ∧
    (t.log = s.log ∨ ∃ e, e ≠ .none ∧ t.log = s.log ++ [{ cycle := s.cycle + 1, unit := i.unit, code := e }])

/-- Operations of different units commute (20_memory.md section 5): both orders give the same state; of the fault log,
the model's bookkeeping, the order of the entries may differ. -/
def Obligations.OperationsOfDifferentUnitsCommute : Prop :=
  ∀ (i j : Instr) (s : State), i.unit ≠ j.unit →
    ∃ a b, andThen (exec i s) (exec j) = .next a ∧ andThen (exec j s) (exec i) = .next b ∧
      { a with log := [] } = { b with log := [] } ∧ a.log.Perm b.log

/-- Every step answers a next state: no stall, no trap, no refusal (70_reset_and_hazards.md sections 3 and 4). It takes one
line, if one is pending (with none the units are idle: the model's choice, log 3), and counts one cycle (the count is the
model's, log 7); the parameter stays. -/
def Obligations.EveryStepCompletes : Prop :=
  ∀ s : State, ∃ t, step s = .next t ∧ t.cycle = s.cycle + 1 ∧ t.lines = s.lines.tail ∧ t.config = s.config

/-- Each unit is isolated (00_scope.md section 1): a sequential unit's registers after a cycle depend only on its own
registers, its own vector and `rst` (and, for CRC, on P_CRC_BASE), and ZAT's outputs only on ZAT's inputs. That a line
with no ZAT input leaves no sample is the model's choice (log 5). -/
def Obligations.UnitsAreIsolated : Prop :=
  ∀ (s u : State) (k l : CycleIn), ∃ t v, feed k s = .next t ∧ feed l u = .next v ∧
    (k.rst = l.rst → s.config = u.config → s.crc = u.crc → k.crc = l.crc → t.crc = v.crc) ∧
    (k.rst = l.rst → s.fenc = u.fenc → k.fenc = l.fenc → t.fenc = v.fenc) ∧
    (k.rst = l.rst → s.fdec = u.fdec → k.fdec = l.fdec → t.fdec = v.fdec) ∧
    (k.zat = l.zat → t.zat = v.zat)

/-- The fault log (60_exceptions.md sections 1 and 4, R168): a cycle appends exactly the codes raised in it, each once and
with its unit: FENC's where `fenc_err` is not 0 after the cycle, FDEC's where the cycle enters ERROR, ZAT's where a
presented input's `at_err` is not 0. That a line with no ZAT input logs no code of ZAT is the model's choice (log 5). The number an entry gives its cycle, counted from 1 over the whole run, is the model's choice (log 7). -/
def Obligations.RaisedCodesAreLogged : Prop :=
  ∀ (s : State) (l : CycleIn), ∃ t new, feed l s = .next t ∧ t.log = s.log ++ new ∧
    (∀ r ∈ new, r.cycle = s.cycle + 1 ∧ r.code ≠ .none ∧
      ((r.unit = .fenc ∧ r.code = t.fenc.err) ∨ (r.unit = .fdec ∧ r.code = t.fdec.err) ∨
        (r.unit = .zat ∧ ∃ z, t.zat = some z ∧ r.code = z.err))) ∧
    (new.map (fun r => r.unit)).Nodup ∧
    ((∃ r ∈ new, r.unit = .fenc) ↔ t.fenc.err ≠ .none) ∧
    ((∃ r ∈ new, r.unit = .fdec) ↔ s.fdec.phase ≠ .error ∧ t.fdec.phase = .error) ∧
    ((∃ r ∈ new, r.unit = .zat) ↔ ∃ z, t.zat = some z ∧ z.err ≠ .none)

/-- The reserved op code pulses (60_exceptions.md R157): 1 after a cycle exactly when the unit received a reserved op code,
without reset; a reserved op code does what NOP does and nothing else but the pulse, and sets no error code. -/
def Obligations.ReservedPulsesFollowReservedCodes : Prop :=
  (∀ (s : State) (l : CycleIn), ∃ t, feed l s = .next t ∧
    (t.outputs.crcRsvd = true ↔ l.rst = false ∧ l.crc.extractLsb' 8 2 = 0b11#2) ∧
    (t.outputs.fencRsvd = true ↔ l.rst = false ∧
      (l.fenc.extractLsb' 8 3 = 0b110#3 ∨ l.fenc.extractLsb' 8 3 = 0b111#3)) ∧
    (t.outputs.fdecRsvd = true ↔ l.rst = false ∧ l.fdec.extractLsb' 8 2 = 0b11#2)) ∧
  (∀ s : State, ∃ a b c, exec .crcNop s = .next a ∧ exec .fencNop s = .next b ∧ exec .fdecNop s = .next c ∧
    exec .crcRsvd3 s = .next { a with crc := { a.crc with rsvd := true } } ∧
    exec .fencRsvd6 s = .next { b with fenc := { b.fenc with rsvd := true } } ∧
    exec .fencRsvd7 s = .next { b with fenc := { b.fenc with rsvd := true } } ∧
    exec .fdecRsvd3 s = .next { c with fdec := { c.fdec with rsvd := true } } ∧
    b.fenc.err = .none ∧ c.fdec.err = s.fdec.err)

/-- A cycle in which the host leaves every unit idle clears the pulse outputs and changes no other register (00_scope.md
section 5, 70_reset_and_hazards.md section 3). That ZAT's sample is then empty and the cycle is counted is the model's
choice (log 5, log 7). -/
def Obligations.IdleCycleClearsThePulses : Prop :=
  ∀ s : State, feed idleLine s = .next { s with
    crc := { s.crc with rsvd := false }
    fenc := { phase := s.fenc.phase, len := 0, b0 := 0x00, b1 := 0x00, err := .none, rsvd := false }
    fdec := { s.fdec with bvalid := false, rsvd := false }
    zat := none
    cycle := s.cycle + 1 }

/-- NOP of every unit, CRC.INIT, FENC.ABORT and FDEC.START: applying them twice equals applying them once
(20_memory.md section 4). -/
def Obligations.IdempotentOperations : Prop :=
  ∀ i ∈ [Instr.crcNop, Instr.fencNop, Instr.fdecNop, Instr.crcInit, Instr.fencAbort, Instr.fdecStart],
    ∀ s : State, ∃ t, exec i s = .next t ∧ exec i t = .next t

/-- A program loaded as the pending lines runs line by line, one per cycle, in order (20_memory.md section 5,
30_encoding.md section 8). That a program is loaded from outside as the pending lines is the model's choice (log 4), and
so is the count of cycles, which takes in every line, a reset line too (log 7): KPC has no cycle counter. -/
def Obligations.LoadedProgramRunsInOrder : Prop :=
  ∀ (ls : List CycleIn) (s : State), ∃ t, stepN ls.length (loadLines ls s) = .next t ∧ feedAll ls s = .next t ∧
    t.cycle = s.cycle + ls.length ∧ t.lines = s.lines

/-- The machine's invariant holds after reset. That the log is empty and no ZAT sample is held there is the model's choice
(log 19). -/
def Obligations.InvariantHoldsAtReset : Prop := machineInv State.reset

/-- Every step keeps the machine's invariant, from every state that has it: the decoder's error code is nonzero exactly in
phase ERROR, unused encoder bytes read 0x00, ZAT's address is 0x0000 on an error, and the fault log (60_exceptions.md
section 4, R168) holds codes of their unit. That its entries name a past cycle, counted from 1 over the whole run, rests
on the model's choice (log 7). -/
def Obligations.EveryStepKeepsTheInvariant : Prop :=
  ∀ s t : State, machineInv s → step s = .next t → machineInv t

/-- Where each code appears (60_exceptions.md section 1): in every state of the machine's invariant, `fenc_err` is 0, 6 or
7, `fdec_err` 0, 4 or 5, and a sampled `at_err` 0, 1, 2 or 3. -/
def Obligations.ErrorOutputsCarryTheirCodes : Prop :=
  ∀ s : State, machineInv s →
    (s.outputs.fencErr = 0 ∨ s.outputs.fencErr = 6 ∨ s.outputs.fencErr = 7) ∧
    (s.outputs.fdecErr = 0 ∨ s.outputs.fdecErr = 4 ∨ s.outputs.fdecErr = 5) ∧
    (∀ e, s.outputs.atErr = some e → e = 0 ∨ e = 1 ∨ e = 2 ∨ e = 3)
end

