-- ==== Sys2Proof/Laws/Encoding.lean ====
section
/-! SUPPORT. The fields of an encoded vector read back, said once for each format (30_encoding.md R56, R58, R60, R62). -/

namespace Sys2Proof

/-- The op field of `{op, din}`. -/
theorem cmdVec_op {k : Nat} (op : BitVec k) (din : Byte) : (cmdVec op din).extractLsb' 8 k = op :=
  BitVec.extractLsb'_append_eq_left

/-- The data field of `{op, din}`. -/
theorem dinOf_cmdVec {k : Nat} (op : BitVec k) (din : Byte) : dinOf (cmdVec op din) = din :=
  BitVec.extractLsb'_append_eq_right

/-- `zone[31:24]` of `zat_in`. -/
theorem zatWord_zone (zone slot : Byte) (offset : Word16) : (zone ++ slot ++ offset).extractLsb' 24 8 = zone := by
  rw [BitVec.extractLsb'_append_eq_of_le (by omega), BitVec.extractLsb'_append_eq_of_le (by omega)]
  simp

/-- `slot[23:16]` of `zat_in`. -/
theorem zatWord_slot (zone slot : Byte) (offset : Word16) : (zone ++ slot ++ offset).extractLsb' 16 8 = slot := by
  rw [BitVec.extractLsb'_append_eq_of_le (by omega), BitVec.extractLsb'_append_eq_of_add_le (by omega)]
  simp

/-- `offset[15:0]` of `zat_in`. -/
theorem zatWord_offset (zone slot : Byte) (offset : Word16) : (zone ++ slot ++ offset).extractLsb' 0 16 = offset := by
  rw [BitVec.extractLsb'_append_eq_of_add_le (by omega)]
  simp

end Sys2Proof
end

