-- ==== Sys2Proof/Laws/Hex.lean ====
section
/-! SUPPORT. What the operand primitives do, said once: hex digits (00_scope.md R12), nibbles, rev16 and the wire bytes. -/

namespace Sys2Proof.Machine

theorem ishex_hexchar (n : Nibble) : ishex (hexchar n) = true := by revert n; decide
theorem hexval_hexchar (n : Nibble) : hexval (hexchar n) = n := by revert n; decide
theorem hexchar_ne_rparen (n : Nibble) : hexchar n ≠ chRParen := by revert n; decide
theorem hexchar_ne_lf (n : Nibble) : hexchar n ≠ chLF := by revert n; decide
theorem ishex_lparen : ishex chLParen = false := by decide
theorem ishex_rparen : ishex chRParen = false := by decide
theorem ishex_lf : ishex chLF = false := by decide

set_option maxRecDepth 4000 in
theorem ofNibbles_hi_lo (b : Byte) : ofNibbles (hiNibble b) (loNibble b) = b := by revert b; decide

theorem legalTargetChar_iff (c : Byte) :
    legalTargetChar c = true ↔ 0x21#8 ≤ c ∧ c ≤ 0x7E#8 ∧ c ≠ chLParen ∧ c ≠ chRParen := by
  simp [legalTargetChar, and_assoc]

/-- `rev16` bit by bit (00_scope.md R12). -/
theorem rev16_getLsbD (x : Word16) (i : Nat) (h : i < 16) : (rev16 x).getLsbD i = x.getLsbD (15 - i) := by
  simp only [rev16, BitVec.getLsbD_reverse, BitVec.getMsbD]
  simp [h]

theorem rev16_rev16 (x : Word16) : rev16 (rev16 x) = x := by
  apply BitVec.eq_of_getLsbD_eq
  intro i hi
  rw [rev16_getLsbD _ i hi, rev16_getLsbD _ _ (by omega)]
  congr 1
  omega

end Sys2Proof.Machine
end

