-- ==== Sys2Proof/Laws/State.lean ====
section
/-! SUPPORT. One lemma per field per update of the state, so that no proof unfolds a record update. -/

namespace Sys2Proof.Machine

/-! ## setCrc -/

@[simp] theorem setCrc_crc (c : CrcRegs) (s : State) : (setCrc c s).crc = c := rfl
@[simp] theorem setCrc_fenc (c : CrcRegs) (s : State) : (setCrc c s).fenc = s.fenc := rfl
@[simp] theorem setCrc_fdec (c : CrcRegs) (s : State) : (setCrc c s).fdec = s.fdec := rfl
@[simp] theorem setCrc_config (c : CrcRegs) (s : State) : (setCrc c s).config = s.config := rfl
@[simp] theorem setCrc_zat (c : CrcRegs) (s : State) : (setCrc c s).zat = s.zat := rfl
@[simp] theorem setCrc_lines (c : CrcRegs) (s : State) : (setCrc c s).lines = s.lines := rfl
@[simp] theorem setCrc_cycle (c : CrcRegs) (s : State) : (setCrc c s).cycle = s.cycle := rfl
@[simp] theorem setCrc_log (c : CrcRegs) (s : State) : (setCrc c s).log = s.log := rfl

/-! ## setFenc -/

@[simp] theorem setFenc_crc (f : FencRegs) (s : State) : (setFenc f s).crc = s.crc := rfl
@[simp] theorem setFenc_fenc (f : FencRegs) (s : State) : (setFenc f s).fenc = f := rfl
@[simp] theorem setFenc_fdec (f : FencRegs) (s : State) : (setFenc f s).fdec = s.fdec := rfl
@[simp] theorem setFenc_config (f : FencRegs) (s : State) : (setFenc f s).config = s.config := rfl
@[simp] theorem setFenc_zat (f : FencRegs) (s : State) : (setFenc f s).zat = s.zat := rfl
@[simp] theorem setFenc_lines (f : FencRegs) (s : State) : (setFenc f s).lines = s.lines := rfl
@[simp] theorem setFenc_cycle (f : FencRegs) (s : State) : (setFenc f s).cycle = s.cycle := rfl
@[simp] theorem setFenc_log (f : FencRegs) (s : State) : (setFenc f s).log = s.log := rfl

/-! ## setFdec -/

@[simp] theorem setFdec_crc (d : FdecRegs) (s : State) : (setFdec d s).crc = s.crc := rfl
@[simp] theorem setFdec_fenc (d : FdecRegs) (s : State) : (setFdec d s).fenc = s.fenc := rfl
@[simp] theorem setFdec_fdec (d : FdecRegs) (s : State) : (setFdec d s).fdec = d := rfl
@[simp] theorem setFdec_config (d : FdecRegs) (s : State) : (setFdec d s).config = s.config := rfl
@[simp] theorem setFdec_zat (d : FdecRegs) (s : State) : (setFdec d s).zat = s.zat := rfl
@[simp] theorem setFdec_lines (d : FdecRegs) (s : State) : (setFdec d s).lines = s.lines := rfl
@[simp] theorem setFdec_cycle (d : FdecRegs) (s : State) : (setFdec d s).cycle = s.cycle := rfl
@[simp] theorem setFdec_log (d : FdecRegs) (s : State) : (setFdec d s).log = s.log := rfl

/-! ## setZat -/

@[simp] theorem setZat_crc (z : ZatOut) (s : State) : (setZat z s).crc = s.crc := rfl
@[simp] theorem setZat_fenc (z : ZatOut) (s : State) : (setZat z s).fenc = s.fenc := rfl
@[simp] theorem setZat_fdec (z : ZatOut) (s : State) : (setZat z s).fdec = s.fdec := rfl
@[simp] theorem setZat_config (z : ZatOut) (s : State) : (setZat z s).config = s.config := rfl
@[simp] theorem setZat_zat (z : ZatOut) (s : State) : (setZat z s).zat = some z := rfl
@[simp] theorem setZat_lines (z : ZatOut) (s : State) : (setZat z s).lines = s.lines := rfl
@[simp] theorem setZat_cycle (z : ZatOut) (s : State) : (setZat z s).cycle = s.cycle := rfl
@[simp] theorem setZat_log (z : ZatOut) (s : State) : (setZat z s).log = s.log := rfl

/-! ## resetRegs -/

@[simp] theorem resetRegs_crc (s : State) : (resetRegs s).crc = CrcRegs.reset := rfl
@[simp] theorem resetRegs_fenc (s : State) : (resetRegs s).fenc = FencRegs.reset := rfl
@[simp] theorem resetRegs_fdec (s : State) : (resetRegs s).fdec = FdecRegs.reset := rfl
@[simp] theorem resetRegs_config (s : State) : (resetRegs s).config = s.config := rfl
@[simp] theorem resetRegs_zat (s : State) : (resetRegs s).zat = s.zat := rfl
@[simp] theorem resetRegs_lines (s : State) : (resetRegs s).lines = s.lines := rfl
@[simp] theorem resetRegs_cycle (s : State) : (resetRegs s).cycle = s.cycle := rfl
@[simp] theorem resetRegs_log (s : State) : (resetRegs s).log = s.log := rfl

/-! ## endCycle -/

@[simp] theorem endCycle_crc (s : State) : (endCycle s).crc = s.crc := rfl
@[simp] theorem endCycle_fenc (s : State) : (endCycle s).fenc = s.fenc := rfl
@[simp] theorem endCycle_fdec (s : State) : (endCycle s).fdec = s.fdec := rfl
@[simp] theorem endCycle_config (s : State) : (endCycle s).config = s.config := rfl
@[simp] theorem endCycle_zat (s : State) : (endCycle s).zat = s.zat := rfl
@[simp] theorem endCycle_lines (s : State) : (endCycle s).lines = s.lines := rfl
@[simp] theorem endCycle_cycle (s : State) : (endCycle s).cycle = s.cycle + 1 := rfl
@[simp] theorem endCycle_log (s : State) : (endCycle s).log = s.log := rfl

/-! ## present -/

@[simp] theorem present_crc (l : CycleIn) (s : State) : (present l s).crc = s.crc := rfl
@[simp] theorem present_fenc (l : CycleIn) (s : State) : (present l s).fenc = s.fenc := rfl
@[simp] theorem present_fdec (l : CycleIn) (s : State) : (present l s).fdec = s.fdec := rfl
@[simp] theorem present_config (l : CycleIn) (s : State) : (present l s).config = s.config := rfl
@[simp] theorem present_zat (l : CycleIn) (s : State) : (present l s).zat = s.zat := rfl
@[simp] theorem present_lines (l : CycleIn) (s : State) : (present l s).lines = l :: s.lines := rfl
@[simp] theorem present_cycle (l : CycleIn) (s : State) : (present l s).cycle = s.cycle := rfl
@[simp] theorem present_log (l : CycleIn) (s : State) : (present l s).log = s.log := rfl

/-! ## presentWord -/

@[simp] theorem presentWord_crc (w : PortWord) (s : State) : (presentWord w s).crc = s.crc := rfl
@[simp] theorem presentWord_fenc (w : PortWord) (s : State) : (presentWord w s).fenc = s.fenc := rfl
@[simp] theorem presentWord_fdec (w : PortWord) (s : State) : (presentWord w s).fdec = s.fdec := rfl
@[simp] theorem presentWord_config (w : PortWord) (s : State) : (presentWord w s).config = s.config := rfl
@[simp] theorem presentWord_zat (w : PortWord) (s : State) : (presentWord w s).zat = s.zat := rfl
@[simp] theorem presentWord_lines (w : PortWord) (s : State) : (presentWord w s).lines = drive w idleLine :: s.lines := rfl
@[simp] theorem presentWord_cycle (w : PortWord) (s : State) : (presentWord w s).cycle = s.cycle := rfl
@[simp] theorem presentWord_log (w : PortWord) (s : State) : (presentWord w s).log = s.log := rfl

/-! ## loadLines -/

@[simp] theorem loadLines_crc (ls : List CycleIn) (s : State) : (loadLines ls s).crc = s.crc := rfl
@[simp] theorem loadLines_fenc (ls : List CycleIn) (s : State) : (loadLines ls s).fenc = s.fenc := rfl
@[simp] theorem loadLines_fdec (ls : List CycleIn) (s : State) : (loadLines ls s).fdec = s.fdec := rfl
@[simp] theorem loadLines_config (ls : List CycleIn) (s : State) : (loadLines ls s).config = s.config := rfl
@[simp] theorem loadLines_zat (ls : List CycleIn) (s : State) : (loadLines ls s).zat = s.zat := rfl
@[simp] theorem loadLines_lines (ls : List CycleIn) (s : State) : (loadLines ls s).lines = ls ++ s.lines := rfl
@[simp] theorem loadLines_cycle (ls : List CycleIn) (s : State) : (loadLines ls s).cycle = s.cycle := rfl
@[simp] theorem loadLines_log (ls : List CycleIn) (s : State) : (loadLines ls s).log = s.log := rfl

/-! ## The registers after the shared unit operations -/

@[simp] theorem fdecClear_phase (d : FdecRegs) : (fdecClear d).phase = d.phase := rfl
@[simp] theorem fdecClear_nhist (d : FdecRegs) : (fdecClear d).nhist = d.nhist := rfl
@[simp] theorem fdecClear_prev2 (d : FdecRegs) : (fdecClear d).prev2 = d.prev2 := rfl
@[simp] theorem fdecClear_prev1 (d : FdecRegs) : (fdecClear d).prev1 = d.prev1 := rfl
@[simp] theorem fdecClear_status (d : FdecRegs) : (fdecClear d).status = d.status := rfl
@[simp] theorem fdecClear_nibv (d : FdecRegs) : (fdecClear d).nibv = d.nibv := rfl
@[simp] theorem fdecClear_nib (d : FdecRegs) : (fdecClear d).nib = d.nib := rfl
@[simp] theorem fdecClear_bad (d : FdecRegs) : (fdecClear d).bad = d.bad := rfl
@[simp] theorem fdecClear_bvalid (d : FdecRegs) : (fdecClear d).bvalid = false := rfl
@[simp] theorem fdecClear_byte (d : FdecRegs) : (fdecClear d).byte = d.byte := rfl
@[simp] theorem fdecClear_err (d : FdecRegs) : (fdecClear d).err = d.err := rfl
@[simp] theorem fdecClear_rsvd (d : FdecRegs) : (fdecClear d).rsvd = false := rfl

@[simp] theorem fencQuiet_phase (p : FencPhase) (r : Bool) : (fencQuiet p r).phase = p := rfl
@[simp] theorem fencQuiet_len (p : FencPhase) (r : Bool) : (fencQuiet p r).len = 0 := rfl
@[simp] theorem fencQuiet_err (p : FencPhase) (r : Bool) : (fencQuiet p r).err = .none := rfl
@[simp] theorem fencQuiet_rsvd (p : FencPhase) (r : Bool) : (fencQuiet p r).rsvd = r := rfl
@[simp] theorem fencFail_phase (f : FencRegs) (e : ErrCode) : (fencFail f e).phase = f.phase := rfl
@[simp] theorem fencFail_len (f : FencRegs) (e : ErrCode) : (fencFail f e).len = 0 := rfl
@[simp] theorem fencFail_err (f : FencRegs) (e : ErrCode) : (fencFail f e).err = e := rfl
@[simp] theorem fencOne_phase (p : FencPhase) (b : Byte) : (fencOne p b).phase = p := rfl
@[simp] theorem fencOne_err (p : FencPhase) (b : Byte) : (fencOne p b).err = .none := rfl
@[simp] theorem fencTwo_phase (p : FencPhase) (b0 b1 : Byte) : (fencTwo p b0 b1).phase = p := rfl
@[simp] theorem fencTwo_err (p : FencPhase) (b0 b1 : Byte) : (fencTwo p b0 b1).err = .none := rfl
@[simp] theorem fencBytes_quiet (p : FencPhase) (r : Bool) : fencBytes (fencQuiet p r) = [] := rfl
@[simp] theorem fencBytes_fail (f : FencRegs) (e : ErrCode) : fencBytes (fencFail f e) = [] := rfl
@[simp] theorem fencBytes_one (p : FencPhase) (b : Byte) : fencBytes (fencOne p b) = [b] := rfl
@[simp] theorem fencBytes_two (p : FencPhase) (b0 b1 : Byte) : fencBytes (fencTwo p b0 b1) = [b0, b1] := rfl

end Sys2Proof.Machine
end

