-- ==== Sys2Proof/Laws/Ops.lean ====
section
/-! SUPPORT. What each shared operation does, said once: raising a code, committing a unit's registers, the start of a cycle, sequencing, and one operation by unit. -/

namespace Sys2Proof.Machine

/-! ## Raising a code -/

@[simp] theorem raisedEntries_none (n : Nat) (u : UnitId) : raisedEntries n u .none = [] := rfl
theorem raisedEntries_of_ne (n : Nat) (u : UnitId) (e : ErrCode) (h : e ≠ .none) :
    raisedEntries n u e = [{ cycle := n + 1, unit := u, code := e }] := by simp [raisedEntries, h]

/-- What an entry left by a raised code says. -/
theorem mem_raisedEntries (n : Nat) (u : UnitId) (e : ErrCode) (r : Raised) :
    r ∈ raisedEntries n u e ↔ e ≠ .none ∧ r = { cycle := n + 1, unit := u, code := e } := by
  unfold raisedEntries; split <;> simp [*]

@[simp] theorem raiseCode_none (u : UnitId) (s : State) : raiseCode u .none s = s := by simp [raiseCode]
@[simp] theorem raiseCode_crc (u : UnitId) (e : ErrCode) (s : State) : (raiseCode u e s).crc = s.crc := rfl
@[simp] theorem raiseCode_fenc (u : UnitId) (e : ErrCode) (s : State) : (raiseCode u e s).fenc = s.fenc := rfl
@[simp] theorem raiseCode_fdec (u : UnitId) (e : ErrCode) (s : State) : (raiseCode u e s).fdec = s.fdec := rfl
@[simp] theorem raiseCode_config (u : UnitId) (e : ErrCode) (s : State) : (raiseCode u e s).config = s.config := rfl
@[simp] theorem raiseCode_zat (u : UnitId) (e : ErrCode) (s : State) : (raiseCode u e s).zat = s.zat := rfl
@[simp] theorem raiseCode_lines (u : UnitId) (e : ErrCode) (s : State) : (raiseCode u e s).lines = s.lines := rfl
@[simp] theorem raiseCode_cycle (u : UnitId) (e : ErrCode) (s : State) : (raiseCode u e s).cycle = s.cycle := rfl
@[simp] theorem raiseCode_log (u : UnitId) (e : ErrCode) (s : State) : (raiseCode u e s).log = s.log ++ raisedEntries s.cycle u e := rfl

/-! ## Committing a unit's registers -/

/-- Everything `commitFenc` does. -/
theorem commitFenc_eq (f : FencRegs) (s : State) :
    commitFenc f s = { s with fenc := f, log := s.log ++ raisedEntries s.cycle .fenc f.err } := rfl

/-- Everything `commitFdec` does. -/
theorem commitFdec_eq (r : FdecRegs × ErrCode) (s : State) :
    commitFdec r s = { s with fdec := r.1, log := s.log ++ raisedEntries s.cycle .fdec r.2 } := rfl

/-- Everything `commitZat` does. -/
theorem commitZat_eq (z : ZatOut) (s : State) :
    commitZat z s = { s with zat := some z, log := s.log ++ raisedEntries s.cycle .zat z.err } := rfl

/-! ## The start of a cycle -/

@[simp] theorem beginCycle_config (l : CycleIn) (s : State) : (beginCycle l s).config = s.config := by
  unfold beginCycle; split <;> rfl
@[simp] theorem beginCycle_zat (l : CycleIn) (s : State) : (beginCycle l s).zat = none := by
  unfold beginCycle; split <;> rfl
@[simp] theorem beginCycle_lines (l : CycleIn) (s : State) : (beginCycle l s).lines = s.lines.tail := by
  unfold beginCycle; split <;> rfl
@[simp] theorem beginCycle_cycle (l : CycleIn) (s : State) : (beginCycle l s).cycle = s.cycle := by
  unfold beginCycle; split <;> rfl
@[simp] theorem beginCycle_log (l : CycleIn) (s : State) : (beginCycle l s).log = s.log := by
  unfold beginCycle; split <;> rfl
theorem beginCycle_crc (l : CycleIn) (s : State) :
    (beginCycle l s).crc = if l.rst then CrcRegs.reset else s.crc := by
  unfold beginCycle; split <;> rfl
theorem beginCycle_fenc (l : CycleIn) (s : State) :
    (beginCycle l s).fenc = if l.rst then FencRegs.reset else s.fenc := by
  unfold beginCycle; split <;> rfl
theorem beginCycle_fdec (l : CycleIn) (s : State) :
    (beginCycle l s).fdec = if l.rst then FdecRegs.reset else s.fdec := by
  unfold beginCycle; split <;> rfl

/-! ## The next line -/

@[simp] theorem nextLine_present (l : CycleIn) (s : State) : nextLine (present l s) = l := rfl
theorem nextLine_nil (s : State) (h : s.lines = []) : nextLine s = idleLine := by
  simp [nextLine, h]

/-! ## Sequencing -/

@[simp] theorem andThen_next (s : State) (f : State → Result) : andThen (.next s) f = f s := rfl
@[simp] theorem runOps_nil (s : State) : runOps [] s = .next s := rfl
theorem runOps_cons (i : Instr) (is : List Instr) (s : State) :
    runOps (i :: is) s = andThen (exec i s) (runOps is) := rfl
@[simp] theorem feedAll_nil (s : State) : feedAll [] s = .next s := rfl
theorem feedAll_cons (l : CycleIn) (ls : List CycleIn) (s : State) :
    feedAll (l :: ls) s = andThen (feed l s) (feedAll ls) := rfl

/-! ## One operation, by its unit -/

/-- The CRC registers after a CRC operation; the other units' operations leave them. -/
def crcAfter (i : Instr) (base : CrcBase) (c : CrcRegs) : CrcRegs :=
  match i with
  | .crcNop => { c with rsvd := false }
  | .crcInit => { acc := 0x0000, rsvd := false }
  | .crcUpd din => { acc := crcUpdAt base c.acc din, rsvd := false }
  | .crcRsvd3 => { c with rsvd := true }
  | _ => c

/-- The FENC registers after a FENC operation; the other units' operations leave them. -/
def fencAfter (i : Instr) (f : FencRegs) : FencRegs :=
  match i with
  | .fencNop => fencQuiet f.phase false
  | .fencTgt din => fencTgtRegs din f
  | .fencOpen => fencOpenRegs f
  | .fencHex din => fencHexRegs din f
  | .fencClose => fencCloseRegs f
  | .fencAbort => fencQuiet .idle false
  | .fencRsvd6 => fencQuiet f.phase true
  | .fencRsvd7 => fencQuiet f.phase true
  | _ => f

/-- The FDEC registers after an FDEC operation, and the code it raises; the other units' operations leave them. -/
def fdecAfter (i : Instr) (d : FdecRegs) : FdecRegs × ErrCode :=
  match i with
  | .fdecNop => (fdecClear d, .none)
  | .fdecStart => (fdecStartRegs, .none)
  | .fdecChr din => fdecChrRegs din d
  | .fdecRsvd3 => ({ d with bvalid := false, rsvd := true }, .none)
  | _ => (d, .none)

/-- ZAT's sample after an operation; the sequential units' operations leave it. -/
def zatAfter (i : Instr) (z : Option ZatOut) : Option ZatOut :=
  match i with
  | .zat zone slot offset => some (zatCalc zone slot offset)
  | _ => z

/-- The code an operation raises. -/
def raisedBy (i : Instr) (s : State) : ErrCode :=
  match i with
  | .zat zone slot offset => (zatCalc zone slot offset).err
  | _ =>
    match i.unit with
    | .fenc => (fencAfter i s.fenc).err
    | .fdec => (fdecAfter i s.fdec).2
    | _ => .none

/-- Everything one operation does, unit by unit: the answer of `exec` in one form for all of them. -/
theorem exec_eq (i : Instr) (s : State) :
    exec i s = .next
      { s with
        crc := crcAfter i s.config.crcBase s.crc
        fenc := fencAfter i s.fenc
        fdec := (fdecAfter i s.fdec).1
        zat := zatAfter i s.zat
        log := s.log ++ raisedEntries s.cycle i.unit (raisedBy i s) } := by
  cases i <;>
    simp [exec, execCrcNop, execCrcInit, execCrcUpd, execCrcRsvd3, execFencNop, execFencTgt, execFencOpen, execFencHex,
      execFencClose, execFencAbort, execFencRsvd6, execFencRsvd7, execFdecNop, execFdecStart, execFdecChr,
      execFdecRsvd3, execZat, commitFenc_eq, commitFdec_eq, commitZat_eq, setCrc, crcAfter, fencAfter, fdecAfter,
      zatAfter, raisedBy, Instr.unit]

end Sys2Proof.Machine
end

