-- ==== Sys2Proof/Laws/PerInstr.lean ====
section
/-! SUPPORT. Facts about every operation as a term, one lemma per constructor. -/

namespace Sys2Proof.Laws.EncodesItsRow

/-- The vector the assembler writes for an operation is one of the operation's own row of the opcode table, on the
operation's own port (30_encoding.md R68, R72). -/
def Statement (i : Instr) : Prop :=
  (encode i).unit = i.unit ∧ ∃ r ∈ opcodeTable, r.mnemonic = i.mnemonic ∧ r.matchesWord (encode i) = true

theorem crcNop : Statement .crcNop := ⟨rfl, ⟨"crc.nop", .crc, 0x000, 0x300⟩, by decide, rfl, by decide⟩
theorem crcInit : Statement .crcInit := ⟨rfl, ⟨"crc.init", .crc, 0x100, 0x300⟩, by decide, rfl, by decide⟩
theorem crcUpd (din : Byte) : Statement (.crcUpd din) :=
  ⟨rfl, ⟨"crc.upd", .crc, 0x200, 0x300⟩, by decide, rfl, by revert din; decide⟩
theorem crcRsvd3 : Statement .crcRsvd3 := ⟨rfl, ⟨"CRC.RSVD3", .crc, 0x300, 0x300⟩, by decide, rfl, by decide⟩
theorem fencNop : Statement .fencNop := ⟨rfl, ⟨"fenc.nop", .fenc, 0x000, 0x700⟩, by decide, rfl, by decide⟩
theorem fencTgt (din : Byte) : Statement (.fencTgt din) :=
  ⟨rfl, ⟨"fenc.tgt", .fenc, 0x100, 0x700⟩, by decide, rfl, by revert din; decide⟩
theorem fencOpen : Statement .fencOpen := ⟨rfl, ⟨"fenc.open", .fenc, 0x200, 0x700⟩, by decide, rfl, by decide⟩
theorem fencHex (din : Byte) : Statement (.fencHex din) :=
  ⟨rfl, ⟨"fenc.hex", .fenc, 0x300, 0x700⟩, by decide, rfl, by revert din; decide⟩
theorem fencClose : Statement .fencClose := ⟨rfl, ⟨"fenc.close", .fenc, 0x400, 0x700⟩, by decide, rfl, by decide⟩
theorem fencAbort : Statement .fencAbort := ⟨rfl, ⟨"fenc.abort", .fenc, 0x500, 0x700⟩, by decide, rfl, by decide⟩
theorem fencRsvd6 : Statement .fencRsvd6 := ⟨rfl, ⟨"FENC.RSVD6", .fenc, 0x600, 0x700⟩, by decide, rfl, by decide⟩
theorem fencRsvd7 : Statement .fencRsvd7 := ⟨rfl, ⟨"FENC.RSVD7", .fenc, 0x700, 0x700⟩, by decide, rfl, by decide⟩
theorem fdecNop : Statement .fdecNop := ⟨rfl, ⟨"fdec.nop", .fdec, 0x000, 0x300⟩, by decide, rfl, by decide⟩
theorem fdecStart : Statement .fdecStart := ⟨rfl, ⟨"fdec.start", .fdec, 0x100, 0x300⟩, by decide, rfl, by decide⟩
theorem fdecChr (din : Byte) : Statement (.fdecChr din) :=
  ⟨rfl, ⟨"fdec.chr", .fdec, 0x200, 0x300⟩, by decide, rfl, by revert din; decide⟩
theorem fdecRsvd3 : Statement .fdecRsvd3 := ⟨rfl, ⟨"FDEC.RSVD3", .fdec, 0x300, 0x300⟩, by decide, rfl, by decide⟩
theorem zat (zone slot : Byte) (offset : Word16) : Statement (.zat zone slot offset) :=
  ⟨rfl, ⟨"zat", .zat, 0x00000000, 0x00000000⟩, by decide, rfl, by simp [OpcodeRow.matchesWord, encode, PortWord.unit]⟩

end Sys2Proof.Laws.EncodesItsRow
end

