-- ==== Sys2Proof/Laws/Step.lean ====
section
/-! SUPPORT. What one cycle does, said once: the closed form of `step`, unit by unit, and the operations of another unit leaving a unit's registers. -/

namespace Sys2Proof.Machine

/-! ## A port's word decodes to its own unit's operation -/

theorem decodeCrc_unit (v : BitVec 10) : (decodeCrc v).unit = .crc := by
  unfold decodeCrc; dsimp only; split_ifs <;> rfl
theorem decodeFenc_unit (v : BitVec 11) : (decodeFenc v).unit = .fenc := by
  unfold decodeFenc; dsimp only; split_ifs <;> rfl
theorem decodeFdec_unit (v : BitVec 10) : (decodeFdec v).unit = .fdec := by
  unfold decodeFdec; dsimp only; split_ifs <;> rfl
theorem decode_unit (w : PortWord) : (decode w).unit = w.unit := by
  cases w with
  | crc v => exact decodeCrc_unit v
  | fenc v => exact decodeFenc_unit v
  | fdec v => exact decodeFdec_unit v
  | zat v => rfl

/-! ## Another unit's operation leaves a unit's registers -/

theorem crcAfter_other (i : Instr) (h : i.unit ≠ .crc) (b : CrcBase) (c : CrcRegs) : crcAfter i b c = c := by
  cases i <;> first | rfl | exact absurd rfl h
theorem fencAfter_other (i : Instr) (h : i.unit ≠ .fenc) (f : FencRegs) : fencAfter i f = f := by
  cases i <;> first | rfl | exact absurd rfl h
theorem fdecAfter_other (i : Instr) (h : i.unit ≠ .fdec) (d : FdecRegs) : fdecAfter i d = (d, .none) := by
  cases i <;> first | rfl | exact absurd rfl h
theorem zatAfter_other (i : Instr) (h : i.unit ≠ .zat) (z : Option ZatOut) : zatAfter i z = z := by
  cases i <;> first | rfl | exact absurd rfl h

/-- A CRC operation raises no code (60_exceptions.md R156). -/
theorem raisedBy_crc (i : Instr) (h : i.unit = .crc) (s : State) : raisedBy i s = .none := by
  cases i <;> first | rfl | (simp [Instr.unit] at h)
theorem raisedBy_fenc (i : Instr) (h : i.unit = .fenc) (s : State) : raisedBy i s = (fencAfter i s.fenc).err := by
  cases i <;> first | rfl | (simp [Instr.unit] at h)
theorem raisedBy_fdec (i : Instr) (h : i.unit = .fdec) (s : State) : raisedBy i s = (fdecAfter i s.fdec).2 := by
  cases i <;> first | rfl | (simp [Instr.unit] at h)

/-! ## One operation on a port -/

theorem exec_crc (i : Instr) (h : i.unit = .crc) (s : State) :
    exec i s = .next { s with crc := crcAfter i s.config.crcBase s.crc } := by
  rw [exec_eq, fencAfter_other i (by simp [h]), fdecAfter_other i (by simp [h]), zatAfter_other i (by simp [h]),
    raisedBy_crc i h]
  simp
theorem exec_fenc (i : Instr) (h : i.unit = .fenc) (s : State) :
    exec i s = .next { s with
      fenc := fencAfter i s.fenc, log := s.log ++ raisedEntries s.cycle .fenc (fencAfter i s.fenc).err } := by
  rw [exec_eq, crcAfter_other i (by simp [h]), fdecAfter_other i (by simp [h]), zatAfter_other i (by simp [h]),
    raisedBy_fenc i h, h]
theorem exec_fdec (i : Instr) (h : i.unit = .fdec) (s : State) :
    exec i s = .next { s with
      fdec := (fdecAfter i s.fdec).1, log := s.log ++ raisedEntries s.cycle .fdec (fdecAfter i s.fdec).2 } := by
  rw [exec_eq, crcAfter_other i (by simp [h]), fencAfter_other i (by simp [h]), zatAfter_other i (by simp [h]),
    raisedBy_fdec i h, h]
theorem exec_zat (z k : Byte) (o : Word16) (s : State) :
    exec (.zat z k o) s = .next { s with
      zat := some (zatCalc z k o), log := s.log ++ raisedEntries s.cycle .zat (zatCalc z k o).err } := rfl

/-! ## One cycle -/

/-- The CRC registers after a cycle on a line. -/
def crcCycle (l : CycleIn) (base : CrcBase) (c : CrcRegs) : CrcRegs :=
  if l.rst then CrcRegs.reset else crcAfter (decodeCrc l.crc) base c

/-- FENC's registers after a cycle on a line. -/
def fencCycle (l : CycleIn) (f : FencRegs) : FencRegs :=
  if l.rst then FencRegs.reset else fencAfter (decodeFenc l.fenc) f

/-- FDEC's registers after a cycle on a line, and the code it raises. -/
def fdecCycle (l : CycleIn) (d : FdecRegs) : FdecRegs × ErrCode :=
  if l.rst then (FdecRegs.reset, .none) else fdecAfter (decodeFdec l.fdec) d

/-- ZAT's outputs in a cycle on a line. -/
def zatCycle (l : CycleIn) : Option ZatOut :=
  l.zat.map fun v => zatCalc (v.extractLsb' 24 8) (v.extractLsb' 16 8) (v.extractLsb' 0 16)

/-- The log entries of a cycle on a line, in the order FENC, FDEC, ZAT. -/
def cycleEntries (l : CycleIn) (s : State) : List Raised :=
  raisedEntries s.cycle .fenc (if l.rst then .none else (fencCycle l s.fenc).err) ++
  (raisedEntries s.cycle .fdec (fdecCycle l s.fdec).2 ++
    ((zatCycle l).elim [] fun z => raisedEntries s.cycle .zat z.err))

/-- A cycle logs at most one code of each unit. -/
theorem cycleEntries_unit_nodup (l : CycleIn) (s : State) : ((cycleEntries l s).map (fun r => r.unit)).Nodup := by
  have h : ∀ n u e, raisedEntries n u e = [] ∨ raisedEntries n u e = [{ cycle := n + 1, unit := u, code := e }] := by
    intro n u e; unfold raisedEntries; split <;> simp
  unfold cycleEntries
  cases zatCycle l with
  | none =>
    rcases h s.cycle .fenc (if l.rst then .none else (fencCycle l s.fenc).err) with h₁ | h₁ <;>
      rcases h s.cycle .fdec (fdecCycle l s.fdec).2 with h₂ | h₂ <;> simp [h₁, h₂]
  | some z =>
    rcases h s.cycle .fenc (if l.rst then .none else (fencCycle l s.fenc).err) with h₁ | h₁ <;>
      rcases h s.cycle .fdec (fdecCycle l s.fdec).2 with h₂ | h₂ <;>
      rcases h s.cycle .zat z.err with h₃ | h₃ <;> simp [h₁, h₂, h₃]

/-- Everything one cycle does. -/
theorem runLine_eq (l : CycleIn) (s : State) :
    runLine l s = .next
      { crc := crcCycle l s.config.crcBase s.crc
        fenc := fencCycle l s.fenc
        fdec := (fdecCycle l s.fdec).1
        config := s.config
        zat := zatCycle l
        lines := s.lines.tail
        cycle := s.cycle + 1
        log := s.log ++ cycleEntries l s } := by
  obtain ⟨rst, vc, vf, vd, vz⟩ := l
  cases rst <;> cases vz <;>
    simp [runLine, lineOps, runOps_cons, beginCycle, resetRegs, decode, exec_crc _ (decodeCrc_unit _),
      exec_fenc _ (decodeFenc_unit _), exec_fdec _ (decodeFdec_unit _), decodeZat, exec_zat, endCycle, crcCycle,
      fencCycle, fdecCycle, zatCycle, cycleEntries]

/-- Everything one step does: a cycle on the host's next line. -/
theorem step_eq (s : State) : step s = runLine (nextLine s) s := rfl

/-- Everything one presented line does. -/
theorem feed_eq (l : CycleIn) (s : State) :
    feed l s = .next
      { crc := crcCycle l s.config.crcBase s.crc
        fenc := fencCycle l s.fenc
        fdec := (fdecCycle l s.fdec).1
        config := s.config
        zat := zatCycle l
        lines := s.lines
        cycle := s.cycle + 1
        log := s.log ++ cycleEntries l s } := by
  have h : feed l s = runLine l (present l s) := rfl
  rw [h, runLine_eq]; rfl

end Sys2Proof.Machine
end

