-- ==== Sys2Proof/Machine/AsmText.lean ====
section
/-! DEFINITION. The assembler's text form (30_encoding.md R67 to R69): from characters to lines to the cycles' inputs. What the rules leave open of the text (blanks, the final newline, literals, empty operand lists and strings, the values of `.raw`) is log 20. -/

namespace Sys2Proof.Machine

/-- Why a text is no program. -/
inductive AsmError where
  /-- A character literal or string that does not end on its line, or holds a character above 0x7F. -/
  | badLiteral
  /-- A word that is no number, or a number too wide for its operand. -/
  | badValue
  /-- No form of 30_encoding.md R68 or R69. -/
  | badForm
  /-- Two operations of one line for the same unit (30_encoding.md R67). -/
  | unitTwice
  deriving DecidableEq, Repr

/-- A token of a line. -/
inductive AsmTok where
  | word (w : String)
  | chr (b : Byte)
  | str (s : List Byte)
  | comma
  | bars
  deriving DecidableEq, Repr

/-- Where the scanner stands: in a word, or in a string; the characters so far, latest first. -/
inductive LexMode where
  | word (acc : List Char)
  | str (acc : List Byte)
  deriving DecidableEq, Repr

/-- The word scanned so far, if any, before the tokens that follow it. -/
def flushWord (acc : List Char) (r : List AsmTok) : List AsmTok :=
  if acc.isEmpty then r else .word (String.ofList acc.reverse) :: r

/-- A character's ASCII code (00_scope.md R13). -/
def asciiCode (c : Char) : Except AsmError Byte :=
  if c.toNat < 128 then .ok (BitVec.ofNat 8 c.toNat) else .error .badLiteral

/-- Blank characters between tokens (log 20). -/
def isBlankChar (c : Char) : Bool := c == ' ' || c == '\t' || c == '\r'

/-- The tokens of one line; a comment runs from `;` to the end of the line (30_encoding.md R67). -/
def lexLine : LexMode → List Char → Except AsmError (List AsmTok)
  | .word acc, [] => .ok (flushWord acc [])
  | .word acc, ';' :: _ => .ok (flushWord acc [])
  | .word acc, '\'' :: '\\' :: 'n' :: '\'' :: r =>
    (lexLine (.word []) r).map (fun t => flushWord acc (.chr chLF :: t))
  | .word acc, '\'' :: c :: '\'' :: r =>
    match asciiCode c, lexLine (.word []) r with
    | .ok b, .ok t => .ok (flushWord acc (.chr b :: t))
    | .error e, _ => .error e
    | _, .error e => .error e
  | .word acc, '"' :: r => (lexLine (.str []) r).map (flushWord acc)
  | .word acc, '|' :: '|' :: r => (lexLine (.word []) r).map (fun t => flushWord acc (.bars :: t))
  | .word acc, ',' :: r => (lexLine (.word []) r).map (fun t => flushWord acc (.comma :: t))
  | .word acc, c :: r =>
    if c = '\'' then .error .badLiteral
    else if isBlankChar c then (lexLine (.word []) r).map (flushWord acc)
    else lexLine (.word (c :: acc)) r
  | .str _, [] => .error .badLiteral
  | .str acc, '"' :: r => (lexLine (.word []) r).map (fun t => .str acc.reverse :: t)
  | .str acc, '\\' :: 'n' :: r => lexLine (.str (chLF :: acc)) r
  | .str acc, c :: r =>
    match asciiCode c with
    | .ok b => lexLine (.str (b :: acc)) r
    | .error e => .error e

/-- The value of a digit character below a base. -/
def digitVal (base : Nat) (c : Char) : Option Nat :=
  let n := c.toNat
  let v := if 0x30 ≤ n ∧ n ≤ 0x39 then n - 0x30
    else if 0x41 ≤ n ∧ n ≤ 0x46 then n - 0x37
    else if 0x61 ≤ n ∧ n ≤ 0x66 then n - 0x57
    else base
  if v < base then some v else none

/-- Digits in a base, most significant first. -/
def digitsVal (base : Nat) : List Char → Nat → Option Nat
  | [], acc => some acc
  | c :: cs, acc =>
    match digitVal base c with
    | some v => digitsVal base cs (acc * base + v)
    | none => none

/-- A value as `0xNN` or a decimal number (30_encoding.md R68). -/
def numberVal (w : String) : Option Nat :=
  match w.toList with
  | '0' :: 'x' :: d :: ds => digitsVal 16 (d :: ds) 0
  | d :: ds => digitsVal 10 (d :: ds) 0
  | [] => none

/-- A value: a number, or a character literal (30_encoding.md R68). -/
def tokVal : AsmTok → Except AsmError Nat
  | .word w =>
    match numberVal w with
    | some v => .ok v
    | none => .error .badValue
  | .chr b => .ok b.toNat
  | .str _ => .error .badForm
  | .comma => .error .badForm
  | .bars => .error .badForm

/-- A value that fits an operand of `n` bits: `B`, `C`, `Z` and `S` are 8-bit values, `O` is 16 bits wide (30_encoding.md R68). -/
def operand (n : Nat) (t : AsmTok) : Except AsmError (BitVec n) :=
  match tokVal t with
  | .ok v => if v < 2 ^ n then .ok (BitVec.ofNat n v) else .error .badValue
  | .error e => .error e

/-- The operand list `V0, ..., Vn-1` of a pseudo-instruction (30_encoding.md R69): bytes with commas between. That it may be
empty (n = 0), and that a comma after its last byte is refused, is the model's choice (DESIGN CHOICE, log 20). -/
def byteList : List AsmTok → Except AsmError (List Byte)
  | [] => .ok []
  | [v] => (operand 8 v).map (fun b => [b])
  | v :: .comma :: r =>
    match operand 8 v, byteList r with
    | .ok b, .ok bs => if r.isEmpty then .error .badForm else .ok (b :: bs)
    | .error e, _ => .error e
    | _, .error e => .error e
  | _ :: _ => .error .badForm

/-- One operation (30_encoding.md R68): a mnemonic with its operands, or `.raw port, value`. R68 writes `.raw`'s value as
`0xHHH` and names it for reserved op codes; that `.raw` takes every form of a value (`0x` with any number of digits, a
decimal number, a character literal) and every vector that fits its port is the model's choice (DESIGN CHOICE, log 20). -/
def parseOp : List AsmTok → Except AsmError AsmOp
  | [.word m] =>
    if m = "crc.nop" then .ok (.op .crcNop)
    else if m = "crc.init" then .ok (.op .crcInit)
    else if m = "fenc.nop" then .ok (.op .fencNop)
    else if m = "fenc.open" then .ok (.op .fencOpen)
    else if m = "fenc.close" then .ok (.op .fencClose)
    else if m = "fenc.abort" then .ok (.op .fencAbort)
    else if m = "fdec.nop" then .ok (.op .fdecNop)
    else if m = "fdec.start" then .ok (.op .fdecStart)
    else .error .badForm
  | [.word m, v] =>
    if m = "crc.upd" then (operand 8 v).map (fun b => .op (.crcUpd b))
    else if m = "fenc.tgt" then (operand 8 v).map (fun b => .op (.fencTgt b))
    else if m = "fenc.hex" then (operand 8 v).map (fun b => .op (.fencHex b))
    else if m = "fdec.chr" then (operand 8 v).map (fun b => .op (.fdecChr b))
    else .error .badForm
  | [.word m, .word port, .comma, v] =>
    if m = ".raw" then
      if port = "crc" then (operand 10 v).map (fun b => .raw (.crc b))
      else if port = "fenc" then (operand 11 v).map (fun b => .raw (.fenc b))
      else if port = "fdec" then (operand 10 v).map (fun b => .raw (.fdec b))
      else .error .badForm
    else .error .badForm
  | [.word m, z, .comma, s, .comma, o] =>
    if m = "zat" then
      match operand 8 z, operand 8 s, operand 16 o with
      | .ok z, .ok s, .ok o => .ok (.op (.zat z s o))
      | .error e, _, _ => .error e
      | _, .error e, _ => .error e
      | _, _, .error e => .error e
    else .error .badForm
  | _ => .error .badForm

/-- The groups of tokens between `||` (30_encoding.md R67); `acc` is the group so far, latest first. -/
def splitBars : List AsmTok → List AsmTok → List (List AsmTok)
  | acc, [] => [acc.reverse]
  | acc, .bars :: r => acc.reverse :: splitBars [] r
  | acc, .word w :: r => splitBars (.word w :: acc) r
  | acc, .chr b :: r => splitBars (.chr b :: acc) r
  | acc, .str s :: r => splitBars (.str s :: acc) r
  | acc, .comma :: r => splitBars (.comma :: acc) r

/-- The operations of a line, in order. -/
def parseOps : List (List AsmTok) → Except AsmError (List AsmOp)
  | [] => .ok []
  | g :: gs =>
    match parseOp g, parseOps gs with
    | .ok o, .ok os => .ok (o :: os)
    | .error e, _ => .error e
    | _, .error e => .error e

/-- A line of operations, each for a different unit (30_encoding.md R67). -/
def parseOpsLine (toks : List AsmTok) : Except AsmError (List Line) :=
  match parseOps (splitBars [] toks) with
  | .ok os => if (Line.ops os).wellFormed then .ok [.ops os] else .error .unitTwice
  | .error e => .error e

/-- The lines one line of text stands for: one, or a pseudo-instruction's expansion (30_encoding.md R67, R69). How the empty
cases are written is the model's choice (DESIGN CHOICE, log 20): `crc.bytes` alone and `fenc.frame "T"` without a comma have
n = 0, a string may be empty, and `fenc.frame "T",` is refused. -/
def parseLine (toks : List AsmTok) : Except AsmError (List Line) :=
  match toks with
  | [] => .ok [nopLine]
  | .word m :: r =>
    if m = "rst" ∧ r = [] then .ok [.rst]
    else if m = "nop" ∧ r = [] then .ok [nopLine]
    else if m = "crc.bytes" then (byteList r).map crcBytesLines
    else if m = "fenc.frame" then
      match r with
      | [.str t] => .ok (fencFrameLines t [])
      | .str t :: .comma :: v :: vs => (byteList (v :: vs)).map (fencFrameLines t)
      | _ => .error .badForm
    else if m = "fdec.line" then
      match r with
      | [.str s] => .ok (fdecLineLines s)
      | _ => .error .badForm
    else parseOpsLine toks
  | _ :: _ => .error .badForm

/-- The lines of a text, split at the newlines; a final newline ends the last line (log 20). -/
def splitLines : List Char → List Char → List (List Char)
  | [], [] => []
  | acc, [] => [acc.reverse]
  | acc, '\n' :: r => acc.reverse :: splitLines [] r
  | acc, c :: r => splitLines (c :: acc) r

/-- The lines of a program's text, in order. -/
def parseLines : List (List Char) → Except AsmError (List Line)
  | [] => .ok []
  | t :: ts =>
    match lexLine (.word []) t with
    | .error e => .error e
    | .ok toks =>
      match parseLine toks, parseLines ts with
      | .ok ls, .ok rest => .ok (ls ++ rest)
      | .error e, _ => .error e
      | _, .error e => .error e

/-- A program's text as the inputs of its cycles (30_encoding.md R67 to R69). -/
def assembleText (text : String) : Except AsmError (List CycleIn) :=
  (parseLines (splitLines [] text.toList)).map (fun ls => ls.map lineInputs)

end Sys2Proof.Machine
end

