-- ==== Sys2Proof/Tests/Slice0.lean ====
section
/-! SUPPORT. Tests of the model against the spec's own words and vectors (95_test_vectors.md, 30_encoding.md), the smoke tests of well-formedness, and a witness for the hypotheses of each statement. -/

namespace Sys2Proof.Tests

open Sys2Proof Sys2Proof.Machine

/-! ## Decoding: words written out from 30_encoding.md R57, R59, R61, R62 and the encodings of 95_test_vectors.md -/

theorem test_decode_crcNop : decode (.crc 0b00_11111111#10) = .crcNop := by decide
theorem test_decode_crcInit : decode (.crc 0b01_11111111#10) = .crcInit := by decide
theorem test_decode_crcUpd : decode (.crc 0b10_00000111#10) = .crcUpd 0x07 := by decide
theorem test_decode_crcRsvd3 : decode (.crc 0b11_10101011#10) = .crcRsvd3 := by decide
theorem test_decode_fencNop : decode (.fenc 0b000_11111111#11) = .fencNop := by decide
theorem test_decode_fencTgt : decode (.fenc 0b001_01100101#11) = .fencTgt 0x65 := by decide
theorem test_decode_fencOpen : decode (.fenc 0b010_00000000#11) = .fencOpen := by decide
theorem test_decode_fencHex : decode (.fenc 0b011_00011110#11) = .fencHex 0x1E := by decide
theorem test_decode_fencClose : decode (.fenc 0b100_00000000#11) = .fencClose := by decide
theorem test_decode_fencAbort : decode (.fenc 0b101_00000000#11) = .fencAbort := by decide
theorem test_decode_fencRsvd6 : decode (.fenc 0b110_10101010#11) = .fencRsvd6 := by decide
theorem test_decode_fencRsvd7 : decode (.fenc 0b111_00000000#11) = .fencRsvd7 := by decide
theorem test_decode_fdecNop : decode (.fdec 0b00_00000000#10) = .fdecNop := by decide
theorem test_decode_fdecStart : decode (.fdec 0b01_00000000#10) = .fdecStart := by decide
theorem test_decode_fdecChr : decode (.fdec 0b10_00101000#10) = .fdecChr 0x28 := by decide
theorem test_decode_fdecRsvd3 : decode (.fdec 0b11_11111111#10) = .fdecRsvd3 := by decide
theorem test_decode_zat : decode (.zat 0b00000010_00000011_0000000000100100#32) = .zat 2 3 36 := by decide
theorem test_decode_tooWide : (decodeNat .crc 0x400).toOption = none := by decide
theorem test_table_word_zat : decodeTableWord 32 0x02030024 = some (.zat 2 3 36) := by decide
theorem test_table_word_fenc_only : decodeTableWord 16 0x500 = some .fencAbort := by decide

/-! ## Well-formedness: each check refuses an ill-formed line (30_encoding.md R67, R68) -/

theorem test_line_two_crc_operations_refused :
    assembleLine (.ops [.op (.crcUpd 7), .op .fencOpen, .op .crcInit]) = none := by decide
theorem test_line_reserved_by_mnemonic_refused : assembleLine (.ops [.op .fencRsvd6]) = none := by decide
theorem test_line_raw_zat_refused : assembleLine (.ops [.raw (.zat 0)]) = none := by decide
theorem test_line_accepted :
    assembleLine (.ops [.op (.zat 2 3 36), .op .crcInit, .op (.fencTgt 0x65)]) =
      some { rst := false, crc := 0x100, fenc := 0x165, fdec := 0x000, zat := some 0x02030024 } := by decide
theorem test_text_line :
    (assembleText ".raw crc, 0x3AB || zat 2, 3, 36 ; a comment").toOption =
      some [{ rst := false, crc := 0x3AB, fenc := 0, fdec := 0, zat := some 0x02030024 }] := by decide

/-! ## States for one-step tests -/

/-- The reset machine at the other reading of P_CRC_BASE. -/
def sLiteral : State := { State.reset with config := { crcBase := .literalUnreflected } }

/-- The reset machine with FENC in a phase. -/
def sFenc (p : FencPhase) : State := { State.reset with fenc := { FencRegs.reset with phase := p } }

/-- The reset machine with FDEC in a phase, with the history `0` `f`. -/
def sFdec (p : FdecPhase) : State :=
  { State.reset with fdec := { FdecRegs.reset with phase := p, nhist := 2, prev2 := 0x30, prev1 := 0x66 } }

/-- The reset machine with FDEC in BODY and a pending nibble. -/
def sNibble : State := { sFdec .body with fdec := { (sFdec .body).fdec with nibv := true, nib := 0xA } }

/-- The reset machine with FDEC in BODY after a bad character. -/
def sBad : State := { sFdec .body with fdec := { (sFdec .body).fdec with bad := true } }

/-- The reset machine with FDEC in ERROR, code E_PARSE. -/
def sError : State := { sFdec .error with fdec := { (sFdec .error).fdec with err := .parse } }

/-- The outputs after an operation. -/
def outs (i : Instr) (s : State) : Option Outputs := (outcomeState (exec i s)).map State.outputs

/-- A cycle on one vector, every other unit idle: what a field of the state is after it. -/
def after {α : Type} (w : PortWord) (s : State) (f : State → α) : Option α :=
  (outcomeState (feed (drive w idleLine) s)).map f

/-! ## One step of each operation, expected values from 95_test_vectors.md and the rules' examples -/

theorem test_crcNop_keeps_acc :
    (outs .crcNop { State.reset with crc := { acc := 0x78B4, rsvd := true } }).map (fun o => (o.crcArc, o.crcRsvd)) =
      some (0x78B4, false) := by decide
theorem test_crcInit_clears :
    (outs .crcInit { State.reset with crc := { acc := 0x78B4, rsvd := false } }).map Outputs.crcField = some 0x0000 := by
  decide
theorem test_crcUpd_reflected :
    (outs (.crcUpd 0x02) { State.reset with crc := { acc := 0xC241, rsvd := false } }).map Outputs.crcArc =
      some 0xF183 := by decide
theorem test_crcUpd_literal : (outs (.crcUpd 0x07) sLiteral).map Outputs.crcArc = some 0x8011 := by decide
theorem test_crc_field_bytes :
    ({ State.reset with crc := { acc := 0x78B4, rsvd := false } } : State).outputs.crcB0 = 0x1E ∧
      ({ State.reset with crc := { acc := 0x78B4, rsvd := false } } : State).outputs.crcB1 = 0x2D := by decide
theorem test_crcRsvd3_pulses :
    (outs .crcRsvd3 { State.reset with crc := { acc := 0x1234, rsvd := false } }).map
      (fun o => (o.crcArc, o.crcRsvd)) = some (0x1234, true) := by decide
theorem test_fencNop_keeps_phase :
    (outs .fencNop (sFenc .body)).map (fun o => (o.fencPhase, o.fencLen)) = some (0b10, 0) := by decide
theorem test_fencTgt_emits :
    (outs (.fencTgt 0x65) (sFenc .idle)).map (fun o => (o.fencLen, o.fencB0, o.fencPhase)) = some (1, 0x65, 0b01) := by
  decide
theorem test_fencTgt_in_body_sequence_error_first :
    (outs (.fencTgt 0x28) (sFenc .body)).map (fun o => (o.fencErr, o.fencPhase)) = some (6, 0b10) := by decide
theorem test_fencOpen_empty_target :
    (outs .fencOpen (sFenc .idle)).map (fun o => (o.fencErr, o.fencPhase)) = some (6, 0b00) := by decide
theorem test_fencHex_9a :
    (outs (.fencHex 0x9A) (sFenc .body)).map (fun o => (o.fencB0, o.fencB1)) = some (0x39, 0x61) := by decide
theorem test_fencClose_bytes :
    (outs .fencClose (sFenc .body)).map (fun o => (o.fencB0, o.fencB1, o.fencPhase)) = some (0x29, 0x0A, 0b00) := by
  decide
theorem test_fencAbort_idles : (outs .fencAbort (sFenc .target)).map Outputs.fencPhase = some 0b00 := by decide
theorem test_fencRsvd6_pulses :
    (outs .fencRsvd6 (sFenc .target)).map (fun o => (o.fencRsvd, o.fencPhase)) = some (true, 0b01) := by decide
theorem test_fencRsvd7_pulses :
    (outs .fencRsvd7 (sFenc .body)).map (fun o => (o.fencRsvd, o.fencPhase)) = some (true, 0b10) := by decide
theorem test_fdecNop_keeps_byte :
    (outs .fdecNop { sFdec .body with fdec := { (sFdec .body).fdec with bvalid := true, byte := 0xAB } }).map
      (fun o => (o.fdecBvalid, o.fdecByte)) = some (false, 0xAB) := by decide
theorem test_fdecStart_leaves_error :
    (outs .fdecStart sError).map (fun o => (o.fdecErr, o.fdecPhase)) = some (0, 0b00) := by decide
theorem test_fdecChr_opens_body :
    (outs (.fdecChr 0x28) (sFdec .scan)).map (fun o => (o.fdecStatus, o.fdecPhase)) = some (0x0F, 0b01) := by decide
theorem test_fdecChr_completes_byte :
    (outs (.fdecChr 0x42) sNibble).map (fun o => (o.fdecBvalid, o.fdecByte)) = some (true, 0xAB) := by decide
theorem test_fdecRsvd3_pulses :
    (outs .fdecRsvd3 (sFdec .body)).map (fun o => (o.fdecRsvd, o.fdecPhase)) = some (true, 0b01) := by decide
theorem test_zat_largest_data_address :
    (outs (.zat 2 15 8191) State.reset).map (fun o => (o.atAddr, o.atErr)) = some (some 0xFF7F, some 0) := by decide
theorem test_zat_slot_checked_before_overflow :
    (outs (.zat 2 255 65535) State.reset).map (fun o => (o.atAddr, o.atErr)) = some (some 0x0000, some 2) := by decide

/-! ## The cycle -/

theorem test_withFetchWord_runs_crc_upd :
    (outcomeState (step (State.reset.withFetchWord 16 0x207))).map (fun t => t.crc.acc) = some 0xC241 := by decide
theorem test_withFetchWord_runs_zat :
    (outcomeState (step (State.reset.withFetchWord 32 0x02030024))).map (fun t => t.outputs.atAddr) =
      some (some 0x0119) := by decide
theorem test_reset_wins :
    (outcomeState (feed { rst := true, crc := 0x207, fenc := 0x307, fdec := 0x230, zat := some 0x01000000 }
      (sFenc .body))).map (fun t => (t.crc.acc, t.fenc.phase, t.fdec.nhist, t.outputs.atErr)) =
      some (0x0000, .idle, 0, some 1) := by decide
theorem test_raised_code_is_logged :
    after (.fenc 0x200) State.reset State.log = some [{ cycle := 1, unit := .fenc, code := .encSeq }] := by decide
theorem test_packet_pre_crc_bytes :
    packetPreCrc { opcode := 0x02, param1 := 0x02, param2 := 0x0119, data := [] } = [0x07, 0x02, 0x02, 0x19, 0x01] := by
  decide

/-- `.raw`'s value as R68 writes it, and in the other forms of a value (log 20). -/
theorem test_asm_raw_value_forms :
    parseOp [.word ".raw", .word "crc", .comma, .word "0x3AB"] = .ok (.raw (.crc 0x3AB)) ∧
      parseOp [.word ".raw", .word "crc", .comma, .word "939"] = .ok (.raw (.crc 0x3AB)) ∧
      parseOp [.word ".raw", .word "fdec", .comma, .chr 0x30] = .ok (.raw (.fdec 0x030)) := by decide
/-- The empty operand lists and strings of the pseudo-instructions (log 20). -/
theorem test_asm_empty_operands :
    parseLine [.word "crc.bytes"] = .ok (crcBytesLines []) ∧
      parseLine [.word "fenc.frame", .str [0x54]] = .ok (fencFrameLines [0x54] []) ∧
      parseLine [.word "fenc.frame", .str []] = .ok (fencFrameLines [] []) ∧
      parseLine [.word "fenc.frame", .str [0x54], .comma] = .error .badForm := by decide

/-! ## Witnesses: concrete states and operands that meet the hypotheses of the statements, clause by clause -/

theorem witness_IgnoredBitsDoNotSelectTheOperation :
    ((0x0FF#10).extractLsb' 8 2 = (0x000#10).extractLsb' 8 2 ∧ (0x0FF#10).extractLsb' 8 2 ≠ 0b10#2) ∧
      ((0x4FF#11).extractLsb' 8 3 = (0x400#11).extractLsb' 8 3 ∧ (0x4FF#11).extractLsb' 8 3 ≠ 0b001#3 ∧
        (0x4FF#11).extractLsb' 8 3 ≠ 0b011#3) := by decide
theorem witness_WellFormedLinePresentsItsOperations :
    (Line.ops [.op .crcInit, .raw (.fenc 0x6AA)]).wellFormed = true ∧
      (∀ o ∈ [AsmOp.op .crcInit, AsmOp.raw (.fenc 0x6AA)], o.unit ≠ .fdec ∧ o.unit ≠ .zat) ∧
      (Line.ops [.op .fdecStart, .op (.zat 0 0 4)]).wellFormed = true ∧
      (∀ o ∈ [AsmOp.op .fdecStart, AsmOp.op (.zat 0 0 4)], o.unit ≠ .crc ∧ o.unit ≠ .fenc) := by decide
theorem witness_CrcUpdReflectedResult : State.reset.config.crcBase = .arcReflected := rfl
theorem witness_CrcUpdLiteralResult : sLiteral.config.crcBase = .literalUnreflected := rfl
theorem witness_ReflectedCrcFieldIsTheUnreflectedRegister : (sFenc .body).config.crcBase = .arcReflected := rfl
theorem witness_CrcResidueIsZero : (sFdec .scan).config.crcBase = .arcReflected := rfl
theorem witness_CrcDependsOnlyOnItsBytes :
    ∀ l ∈ [drive (.crc 0x207) idleLine, drive (.fenc 0x165) idleLine, drive (.crc 0x3AB) idleLine],
      l.rst = false ∧ decode (.crc l.crc) ≠ .crcInit := by decide
theorem witness_CrcIsLinear : ([0x01, 0x02, 0x03] : List Byte).length = ([0x80, 0x55, 0xFF] : List Byte).length := rfl
theorem witness_FencTargetResult :
    (sFenc .body).fenc.phase = .body ∧ (sFenc .idle).fenc.phase ≠ .body ∧ (sFenc .target).fenc.phase ≠ .body ∧
      legalTargetChar 0x20 = false ∧ legalTargetChar 0x7F = false ∧ legalTargetChar 0x28 = false ∧
      legalTargetChar 0x29 = false ∧ legalTargetChar 0x21 = true ∧ legalTargetChar 0x7E = true := by decide
theorem witness_FencOpenResult :
    (sFenc .target).fenc.phase = .target ∧ (sFenc .idle).fenc.phase ≠ .target ∧ (sFenc .body).fenc.phase ≠ .target := by
  decide
theorem witness_FencHexResult :
    (sFenc .body).fenc.phase = .body ∧ (sFenc .idle).fenc.phase ≠ .body ∧ (sFenc .target).fenc.phase ≠ .body := by decide
theorem witness_FencCloseResult :
    (sFenc .body).fenc.phase = .body ∧ (sFenc .target).fenc.phase ≠ .body ∧ (sFenc .idle).fenc.phase ≠ .body := by decide
theorem witness_EncoderEmitsTheFrame :
    State.reset.fenc.phase = .idle ∧ legalTarget [0x65, 0x3A, 0x74] = true ∧ legalTarget [0x21] = true := by decide
theorem witness_ErrorFreeEncoderRunsAreFrames :
    State.reset.fenc.phase = .idle ∧
      ∀ i ∈ [Instr.fencTgt 0x65, .fencOpen, .fencHex 0x1E, .fencClose],
        (∃ c, i = .fencTgt c) ∨ i = .fencOpen ∨ (∃ b, i = .fencHex b) ∨ i = .fencClose := by
  refine ⟨rfl, ?_⟩; simp
theorem witness_FdecScanResult_match :
    (sFdec .scan).fdec.phase = .scan ∧ (sFdec .scan).fdec.nhist = 2 ∧ ishex (sFdec .scan).fdec.prev2 = true ∧
      ishex (sFdec .scan).fdec.prev1 = true := by decide
theorem witness_FdecScanResult_history :
    State.reset.fdec.phase = .scan ∧ (0x28 : Byte) ≠ 0x0A ∧
      ¬((0x28 : Byte) = 0x28 ∧ State.reset.fdec.nhist = 2 ∧ ishex State.reset.fdec.prev2 = true ∧
        ishex State.reset.fdec.prev1 = true) := by decide
theorem witness_FdecBodyResult_close :
    (sFdec .body).fdec.phase = .body ∧ (sFdec .body).fdec.bad = false ∧ (sFdec .body).fdec.nibv = false ∧
      sBad.fdec.phase = .body ∧ sBad.fdec.bad = true ∧ sNibble.fdec.phase = .body ∧ sNibble.fdec.nibv = true := by decide
theorem witness_FdecBodyResult_character :
    sBad.fdec.bad = true ∧ (0x7A : Byte) ≠ 0x29 ∧ (0x7A : Byte) ≠ 0x0A ∧ (sFdec .body).fdec.bad = false ∧
      ishex 0x30 = true ∧ ishex 0x66 = true ∧ sNibble.fdec.bad = false ∧ ishex 0x7A = false ∧ ishex 0x28 = false := by
  decide
theorem witness_FdecIgnoresCharactersAfterTheEnd :
    (sFdec .done).fdec.phase = .done ∧ sError.fdec.phase = .error := by decide
theorem witness_FdecErrorIsSticky_stays :
    sError.fdec.phase = .error ∧ idleLine.rst = false ∧ decode (.fdec idleLine.fdec) ≠ .fdecStart := by decide
theorem witness_FdecErrorIsSticky_enters :
    State.reset.fdec.phase ≠ .error ∧ after (.fdec 0x20A) State.reset (fun t => t.fdec.phase) = some .error := by decide
theorem witness_FdecErrorIsSticky_leaves :
    sError.fdec.phase = .error ∧ after (.fdec 0x100) sError (fun t => t.fdec.phase) = some .scan := by decide
theorem witness_DecoderMeetsTheRegularExpression :
    (0x0A#8) ∉ ([0x30, 0x30, 0x28, 0x61, 0x62, 0x29] : List Byte) := by decide
theorem witness_DecodingAnEncodedFrame :
    State.reset.fenc.phase = .idle ∧ legalTarget [0x61, 0x62] = true := by decide
/-- The targets `e:t` and `a`: the E_PARSE clauses, the first as 42_frame_decoder.md R135 gives it. -/
theorem witness_DecodingAnEncodedFrame_parse :
    legalTarget [0x65, 0x3A, 0x74] = true ∧ (ishex 0x3A && ishex 0x74) = false ∧
      decText (collectFenc (programOf (fencFrameLines [0x65, 0x3A, 0x74] [0x01, 0x02, 0x03])) State.reset) State.reset =
        some (.err .parse) ∧
      legalTarget [0x61] = true ∧
      decText (collectFenc (programOf (fencFrameLines [0x61] [0x01])) State.reset) State.reset = some (.err .parse) := by
  decide
theorem witness_LeadingNoiseIsIgnored :
    ∀ c ∈ ([0x00, 0x20, 0x7F, 0x80] : List Byte), ishex c = false ∧ c ≠ 0x28 ∧ c ≠ 0x0A := by decide
theorem witness_OutcomeIsFinal :
    decText [0x0A] State.reset = some (.err .parse) ∧ DecOutcome.err .parse ≠ .incomplete := by decide
theorem witness_ZatResult :
    (0x0F : Byte).toNat ≤ 15 ∧ (0x1FFF : Word16).toNat / 32 ≤ 255 ∧ 15 < (0x10 : Byte).toNat ∧
      255 < (0x2000 : Word16).toNat / 32 ∧ (1 : Byte) ≠ 0 ∧ (1 : Byte) ≠ 2 := by decide
theorem witness_ZatBitFields : (0x0F : Byte).toNat ≤ 15 ∧ (0x1FFF : Word16).toNat < 8192 := by decide
theorem witness_ZatAddressNamesOneWord :
    (3 : Byte).toNat ≤ 15 ∧ (15 : Byte).toNat ≤ 15 ∧ (37 : Word16).toNat < 8192 ∧ (8191 : Word16).toNat < 8192 := by decide
theorem witness_ResetCycleOverridesOperations : (lineInputs .rst).rst = true := rfl
theorem witness_StepRunsTheDecodedOperations :
    (nextLine (State.reset.withFetchWord 16 0x207)).rst = false := by decide
theorem witness_OperationsOfDifferentUnitsCommute : (Instr.fencOpen).unit ≠ (Instr.zat 1 0 0).unit := by decide
theorem witness_UnitsAreIsolated :
    (sFenc .body).crc = State.reset.crc ∧ (sFenc .body).config = State.reset.config ∧
      (drive (.crc 0x207) idleLine).fenc = idleLine.fenc ∧ (drive (.crc 0x207) idleLine).rst = idleLine.rst ∧
      (sFdec .body).fenc = State.reset.fenc ∧ (sFenc .body).fdec = State.reset.fdec := by decide

/-- A state the invariant holds in, other than reset: FENC in TARGET, one code logged. -/
def sInv : State :=
  { sFenc .target with cycle := 3, log := [{ cycle := 2, unit := .fenc, code := .encChar }] }

theorem witness_machineInv : machineInv sInv := by
  refine ⟨by decide, by decide, ?_, ?_⟩
  · intro z h; cases h
  · decide
theorem witness_EveryStepKeepsTheInvariant :
    machineInv sInv ∧ (outcomeState (step sInv)).map State.cycle = some 4 := ⟨witness_machineInv, by decide⟩
theorem witness_ErrorOutputsCarryTheirCodes : machineInv sInv := witness_machineInv

end Sys2Proof.Tests
end

section
/-! The primitives of 00_scope.md R12 read as arithmetic on the values of their operands. -/

namespace Sys2Proof.Machine

/-- The three ranges of hex digits of R12, over the character's number. -/
theorem ishex_iff_toNat (c : Byte) : ishex c = true ↔
    (0x30 ≤ c.toNat ∧ c.toNat ≤ 0x39) ∨ (0x41 ≤ c.toNat ∧ c.toNat ≤ 0x46) ∨
      (0x61 ≤ c.toNat ∧ c.toNat ≤ 0x66) := by
  simp [ishex, BitVec.le_def, or_assoc]

/-- The value of a hex digit. Each range of digits selects one branch of `hexval`, and in that branch neither the
subtraction wraps nor the cut to four bits loses anything. -/
theorem hexval_toNat (c : Byte) (h : ishex c = true) : (hexval c).toNat =
    if c.toNat ≤ 0x39 then c.toNat - 0x30
    else if c.toNat ≤ 0x46 then c.toNat - 0x41 + 10 else c.toNat - 0x61 + 10 := by
  have hle39 : c ≤ 0x39#8 ↔ c.toNat ≤ 0x39 := BitVec.le_def
  have hle46 : c ≤ 0x46#8 ↔ c.toNat ≤ 0x46 := BitVec.le_def
  simp only [hexval, hle39, hle46]
  obtain hdigit | hupper | hlower := (ishex_iff_toNat c).mp h
  · rw [if_pos (by omega), if_pos (by omega)]
    simp only [BitVec.toNat_setWidth, BitVec.toNat_sub, BitVec.toNat_ofNat]
    omega
  · rw [if_neg (by omega), if_pos (by omega), if_neg (by omega), if_pos (by omega)]
    simp only [BitVec.toNat_setWidth, BitVec.toNat_add, BitVec.toNat_sub, BitVec.toNat_ofNat]
    omega
  · rw [if_neg (by omega), if_neg (by omega), if_neg (by omega), if_neg (by omega)]
    simp only [BitVec.toNat_setWidth, BitVec.toNat_add, BitVec.toNat_sub, BitVec.toNat_ofNat]
    omega

/-- The lowercase digit of a nibble: a decimal digit up to 9, a letter from 10 on. -/
theorem hexchar_toNat (n : Nibble) :
    (hexchar n).toNat = if n.toNat ≤ 9 then 0x30 + n.toNat else 0x61 + (n.toNat - 10) := by
  have hle9 : n ≤ 9#4 ↔ n.toNat ≤ 9 := BitVec.le_def
  have hlt : n.toNat < 16 := n.isLt
  simp only [hexchar, hle9]
  split
  · simp only [BitVec.toNat_add, BitVec.toNat_setWidth, BitVec.toNat_ofNat]
    omega
  · simp only [BitVec.toNat_add, BitVec.toNat_sub, BitVec.toNat_setWidth, BitVec.toNat_ofNat]
    omega

end Sys2Proof.Machine

namespace Sys2Proof.Proofs

open Sys2Proof.Machine

/-- Settles O1: one arithmetic lemma for each of the four primitives of 00_scope.md R12. -/
theorem primitivesAgreeWithArithmetic : Obligations.PrimitivesAgreeWithArithmetic :=
  ⟨ishex_iff_toNat, hexval_toNat, hexchar_toNat, rev16_getLsbD⟩

end Sys2Proof.Proofs
end

section
/-! The CRC outputs of a cleared accumulator (40_crc.md R82, R83), and the state after reset (10_state.md R33). -/

namespace Sys2Proof.Machine

/-- The zero word is its own reversal (00_scope.md R12). -/
theorem rev16_zero : rev16 0 = 0 := by
  apply BitVec.eq_of_getLsbD_eq
  intro i hi
  rw [rev16_getLsbD 0 i hi]
  simp

theorem crcField_of_acc_eq_zero {c : CrcRegs} (h : c.acc = 0) : crcField c = 0 := by
  rw [crcField, h, rev16_zero]

theorem crcB0_of_acc_eq_zero {c : CrcRegs} (h : c.acc = 0) : crcB0 c = 0 := by
  rw [crcB0, crcField_of_acc_eq_zero h]; rfl

theorem crcB1_of_acc_eq_zero {c : CrcRegs} (h : c.acc = 0) : crcB1 c = 0 := by
  rw [crcB1, crcField_of_acc_eq_zero h]; rfl

end Sys2Proof.Machine

namespace Sys2Proof.Proofs

open Sys2Proof.Machine

/-- Settles O36: the registers are the fields of the three reset records; the CRC outputs are those of a cleared
accumulator; the other derived outputs are read off the phases IDLE and SCAN and the code E_NONE. -/
theorem resetRegisterValues : Obligations.ResetRegisterValues := by
  have hacc : State.reset.crc.acc = 0 := rfl
  have hidle : State.reset.fenc.phase = .idle ∧ State.reset.fenc.err = .none := ⟨rfl, rfl⟩
  have hscan : State.reset.fdec.phase = .scan ∧ State.reset.fdec.err = .none := ⟨rfl, rfl⟩
  refine ⟨rfl, rfl, rfl, hacc, crcField_of_acc_eq_zero hacc, crcB0_of_acc_eq_zero hacc, crcB1_of_acc_eq_zero hacc, ?_⟩
  simp [State.outputs, hidle, hscan, FencPhase.code, FdecPhase.code, ErrCode.code, fdecDone, fdecStatusErr]

end Sys2Proof.Proofs
end

section
/-! What the decoders read of a vector (30_encoding.md R57, R59, R61, R64): on an op code without a data field, the op
code alone. -/

namespace Sys2Proof

/-- Only CRC op code 0b10 reads `din` (30_encoding.md R57): its branch of `decodeCrc` is the one that does not follow
from the op code. -/
theorem decodeCrc_eq_of_op_eq {v w : BitVec 10} (hop : v.extractLsb' 8 2 = w.extractLsb' 8 2)
    (hupd : v.extractLsb' 8 2 ≠ 0b10#2) : decodeCrc v = decodeCrc w := by
  have hupd' : w.extractLsb' 8 2 ≠ 0b10#2 := hop ▸ hupd
  simp only [decodeCrc, hop, if_neg hupd']

/-- Only FDEC op code 0b10 reads `din` (30_encoding.md R61). -/
theorem decodeFdec_eq_of_op_eq {v w : BitVec 10} (hop : v.extractLsb' 8 2 = w.extractLsb' 8 2)
    (hchr : v.extractLsb' 8 2 ≠ 0b10#2) : decodeFdec v = decodeFdec w := by
  have hchr' : w.extractLsb' 8 2 ≠ 0b10#2 := hop ▸ hchr
  simp only [decodeFdec, hop, if_neg hchr']

/-- Only FENC op codes 0b001 and 0b011 read `din` (30_encoding.md R59). -/
theorem decodeFenc_eq_of_op_eq {v w : BitVec 11} (hop : v.extractLsb' 8 3 = w.extractLsb' 8 3)
    (htgt : v.extractLsb' 8 3 ≠ 0b001#3) (hhex : v.extractLsb' 8 3 ≠ 0b011#3) : decodeFenc v = decodeFenc w := by
  have htgt' : w.extractLsb' 8 3 ≠ 0b001#3 := hop ▸ htgt
  have hhex' : w.extractLsb' 8 3 ≠ 0b011#3 := hop ▸ hhex
  simp only [decodeFenc, hop, if_neg htgt', if_neg hhex']

end Sys2Proof

namespace Sys2Proof.Proofs

/-- Settles O4: one lemma for the decoder of each command port. -/
theorem ignoredBitsDoNotSelectTheOperation : Obligations.IgnoredBitsDoNotSelectTheOperation :=
  ⟨fun _ _ hop hdata => ⟨decodeCrc_eq_of_op_eq hop hdata, decodeFdec_eq_of_op_eq hop hdata⟩,
    fun _ _ hop htgt hhex => decodeFenc_eq_of_op_eq hop htgt hhex⟩

end Sys2Proof.Proofs
end

section
/-! The operations of the CRC unit one by one, and its outputs (40_crc.md R76 to R83). -/

namespace Sys2Proof.Machine

theorem repeat8_eq_iterate (f : Word16 → Word16) : repeat8 f = f^[8] := rfl

theorem exec_crcUpd (b : Byte) (s : State) :
    exec (.crcUpd b) s = .next { s with crc := { acc := crcUpdAt s.config.crcBase s.crc.acc b, rsvd := false } } :=
  exec_crc (.crcUpd b) rfl s

@[simp] theorem outputs_crcArc (s : State) : s.outputs.crcArc = s.crc.acc := rfl
@[simp] theorem outputs_crcField (s : State) : s.outputs.crcField = rev16 s.crc.acc := rfl
@[simp] theorem outputs_crcB0 (s : State) : s.outputs.crcB0 = wireFirst s.outputs.crcField := rfl
@[simp] theorem outputs_crcB1 (s : State) : s.outputs.crcB1 = wireSecond s.outputs.crcField := rfl

theorem wireFirst_getLsbD (v : Word16) {i : Nat} (hi : i < 8) : (wireFirst v).getLsbD i = v.getLsbD i := by
  simp [wireFirst, hi]

theorem wireSecond_getLsbD (v : Word16) {i : Nat} (hi : i < 8) : (wireSecond v).getLsbD i = v.getLsbD (8 + i) := by
  simp [wireSecond, hi]

end Sys2Proof.Machine

namespace Sys2Proof.Proofs

open Sys2Proof.Machine

/-- Settles O8: the three operations by `exec_crc`; after INIT the outputs are those of a cleared accumulator. -/
theorem crcNopInitReservedResults : Obligations.CrcNopInitReservedResults := by
  intro s
  refine ⟨exec_crc .crcNop rfl s, exec_crc .crcRsvd3 rfl s, _, exec_crc .crcInit rfl s, rfl, rfl, ?_, ?_, ?_, ?_⟩
  · exact crcField_of_acc_eq_zero rfl
  · exact crcB0_of_acc_eq_zero rfl
  · exact crcB1_of_acc_eq_zero rfl
  · exact exec_crc .crcInit rfl _

/-- Settles O9: the turn the statement writes out is `arcBit`. -/
theorem crcUpdReflectedResult : Obligations.CrcUpdReflectedResult := by
  refine ⟨fun s b hbase => ?_, by decide, by decide⟩
  rw [exec_crcUpd, hbase, crcUpdAt, crcUpdArc, repeat8_eq_iterate]
  rfl

/-- Settles O10: the turn the statement writes out is `literalBit`. -/
theorem crcUpdLiteralResult : Obligations.CrcUpdLiteralResult := by
  intro s b hbase
  rw [exec_crcUpd, hbase, crcUpdAt, crcUpdLiteral, repeat8_eq_iterate]
  rfl

/-- Settles O11: the field by `rev16_getLsbD`, its bytes by the bits of the two wire bytes. -/
theorem crcOutputsAreTheReversedField : Obligations.CrcOutputsAreTheReversedField := by
  intro s
  refine ⟨outputs_crcArc s, fun i hi => ?_, fun i hi => ⟨?_, ?_⟩, outputs_crcB0 s, outputs_crcB1 s⟩
  · rw [outputs_crcField, rev16_getLsbD s.crc.acc i hi]
  · rw [outputs_crcB0, wireFirst_getLsbD s.outputs.crcField hi]
  · rw [outputs_crcB1, wireSecond_getLsbD s.outputs.crcField hi]

end Sys2Proof.Proofs
end

section
/-! What a run leaves in the CRC unit: the fold of its cycles, and for the lines of `crc.bytes` (30_encoding.md R69) the
accumulator ACC of 40_crc.md R81. -/

namespace Sys2Proof.Machine

/-- A run answers a state, keeps P_CRC_BASE, and takes the CRC registers through one `crcCycle` after another, whatever
the lines hold. -/
theorem feedAll_crc (ls : List CycleIn) (s : State) :
    ∃ t, feedAll ls s = .next t ∧ t.config = s.config ∧
      t.crc = ls.foldl (fun c l => crcCycle l s.config.crcBase c) s.crc := by
  induction ls generalizing s with
  | nil => exact ⟨s, rfl, rfl, rfl⟩
  | cons l ls ih =>
    rw [feedAll_cons, feed_eq, andThen_next]
    exact ih _

theorem crcCycle_opLine_crcInit (base : CrcBase) (c : CrcRegs) :
    crcCycle (lineInputs (opLine .crcInit)) base c = { acc := 0x0000, rsvd := false } := rfl

theorem decodeCrc_opLine_crcUpd (b : Byte) : decodeCrc (lineInputs (opLine (.crcUpd b))).crc = .crcUpd b := by
  have hcrc : (lineInputs (opLine (.crcUpd b))).crc = cmdVec 0b10#2 b := rfl
  simp [hcrc, decodeCrc, cmdVec_op, dinOf_cmdVec]

theorem crcCycle_opLine_crcUpd_acc (b : Byte) (base : CrcBase) (c : CrcRegs) :
    (crcCycle (lineInputs (opLine (.crcUpd b))) base c).acc = crcUpdAt base c.acc b := by
  have hrst : (lineInputs (opLine (.crcUpd b))).rst = false := rfl
  simp [crcCycle, hrst, decodeCrc_opLine_crcUpd, crcAfter]

/-- The lines of `crc.bytes` leave ACC in the accumulator, from every state. -/
theorem feedAll_crcBytesLines (d : List Byte) (s : State) :
    ∃ t, feedAll (programOf (crcBytesLines d)) s = .next t ∧ t.crc.acc = accOf s.config.crcBase d := by
  obtain ⟨t, hrun, -, hcrc⟩ := feedAll_crc (programOf (crcBytesLines d)) s
  refine ⟨t, hrun, ?_⟩
  rw [hcrc, programOf, crcBytesLines, List.map_cons, List.map_map, List.foldl_cons, crcCycle_opLine_crcInit,
    List.foldl_map]
  exact (List.foldl_hom CrcRegs.acc fun c b => (crcCycle_opLine_crcUpd_acc b s.config.crcBase c).symm).symm

end Sys2Proof.Machine
end

section
/-! R89: the reversal `rev16` takes ARC_REFLECTED's right-shifting loop to the left-shifting register. R78 adds a byte
to the accumulator before its eight turns, R89 one bit at each turn: after n turns the accumulator still holds, beside the
register's value, the bits of the byte not yet consumed. -/

namespace Sys2Proof.Machine

theorem rev16_xor (x y : Word16) : rev16 (x ^^^ y) = rev16 x ^^^ rev16 y := by
  apply BitVec.eq_of_getLsbD_eq
  intro i hi
  simp [rev16_getLsbD _ i hi]

theorem rev16_shiftLeft_one (x : Word16) : rev16 (x <<< 1) = rev16 x >>> 1 := by
  apply BitVec.eq_of_getLsbD_eq
  intro i hi
  rw [rev16_getLsbD _ i hi, BitVec.getLsbD_shiftLeft, BitVec.getLsbD_ushiftRight]
  by_cases hlast : i = 15
  · subst hlast
    simp
  · have hin : 15 - i < 16 ∧ ¬ 15 - i < 1 := by omega
    rw [rev16_getLsbD x (1 + i) (by omega), Nat.add_comm 1 i, ← Nat.sub_sub]
    simp [hin]

/-- One turn of R78 on the reversed register with data added. The data's lowest bit decides with the register's top bit,
its other bits move down one place. -/
theorem arcBit_rev16_xor (r data : Word16) :
    arcBit (rev16 r ^^^ data) = rev16 (reversedBit r (data.getLsbD 0)) ^^^ data >>> 1 := by
  have hpoly : rev16 0x8005#16 = 0xA001#16 := by decide
  have hlow : (rev16 r).getLsbD 0 = r.getLsbD 15 := rev16_getLsbD r 0 (by omega)
  have hshift : (rev16 r ^^^ data) >>> 1 = rev16 (r <<< 1) ^^^ data >>> 1 := by
    rw [BitVec.ushiftRight_xor_distrib, rev16_shiftLeft_one]
  rw [arcBit, reversedBit, BitVec.getLsbD_xor, hlow, hshift]
  split
  · rw [rev16_xor, hpoly]
    ac_rfl
  · rfl

/-- `n` turns consume the data's lowest `n` bits, least significant first. -/
theorem arcBit_iterate_rev16_xor (n : Nat) (r data : Word16) :
    arcBit^[n] (rev16 r ^^^ data) =
      rev16 (((List.range n).map data.getLsbD).foldl reversedBit r) ^^^ data >>> n := by
  induction n with
  | zero => simp
  | succ n ih =>
    have hbit : (data >>> n).getLsbD 0 = data.getLsbD n := BitVec.getLsbD_ushiftRight data n 0
    rw [Function.iterate_succ_apply', ih, arcBit_rev16_xor, hbit, BitVec.shiftRight_add, List.range_succ,
      List.map_append, List.foldl_append]
    rfl

theorem bitsLsbFirst_eq_map_range (b : Byte) : bitsLsbFirst b = (List.range 8).map (b.setWidth 16).getLsbD := by
  simp [bitsLsbFirst, List.range_succ]

/-- One byte: all eight of its bits are consumed. -/
theorem rev16_crcUpdArc (acc : Word16) (b : Byte) :
    rev16 (crcUpdArc acc b) = (bitsLsbFirst b).foldl reversedBit (rev16 acc) := by
  have hnone : b.setWidth 16 >>> 8 = 0#16 := by
    apply BitVec.eq_of_getLsbD_eq
    intro i hi
    simp
  have hturns := arcBit_iterate_rev16_xor 8 (rev16 acc) (b.setWidth 16)
  rw [rev16_rev16, hnone, BitVec.xor_zero] at hturns
  rw [crcUpdArc, repeat8_eq_iterate, hturns, rev16_rev16, bitsLsbFirst_eq_map_range]

theorem rev16_accOf_arcReflected (d : List Byte) : rev16 (accOf .arcReflected d) = reversedCrc d := by
  rw [accOf, reversedCrc, List.foldl_flatMap, ← rev16_zero]
  exact (List.foldl_hom rev16 fun acc b => (rev16_crcUpdArc acc b).symm).symm

end Sys2Proof.Machine

namespace Sys2Proof.Proofs

open Sys2Proof.Machine

/-- Settles O12: the run leaves ACC, whose reversal is the register R (`rev16_accOf_arcReflected`). -/
theorem reflectedCrcFieldIsTheUnreflectedRegister : Obligations.ReflectedCrcFieldIsTheUnreflectedRegister := by
  intro s d hbase
  obtain ⟨t, hrun, hacc⟩ := feedAll_crcBytesLines d s
  refine ⟨t, hrun, ?_⟩
  rw [outputs_crcField, hacc, hbase, rev16_accOf_arcReflected]

end Sys2Proof.Proofs
end

section
/-! Linearity over GF(2) (40_crc.md section 5): the exclusive or goes through one turn of either loop, so through
CRC.UPD and through a byte string. -/

namespace Sys2Proof.Machine

/-- The conditional addition of the polynomial that both loops end in: on a sum of words, two additions cancel. -/
theorem ite_xor_poly (p q : Bool) (u v poly : Word16) :
    (if p ^^ q then (u ^^^ v) ^^^ poly else u ^^^ v) =
      (if p then u ^^^ poly else u) ^^^ (if q then v ^^^ poly else v) := by
  have hcancel : (u ^^^ poly) ^^^ (v ^^^ poly) = (u ^^^ v) ^^^ (poly ^^^ poly) := by ac_rfl
  cases p <;> cases q
  · rfl
  · exact BitVec.xor_assoc u v poly
  · change (u ^^^ v) ^^^ poly = (u ^^^ poly) ^^^ v
    ac_rfl
  · change u ^^^ v = (u ^^^ poly) ^^^ (v ^^^ poly)
    rw [hcancel, BitVec.xor_self, BitVec.xor_zero]

theorem arcBit_xor (x y : Word16) : arcBit (x ^^^ y) = arcBit x ^^^ arcBit y := by
  simp only [arcBit, BitVec.getLsbD_xor, BitVec.ushiftRight_xor_distrib, ite_xor_poly]

theorem literalBit_xor (x y : Word16) : literalBit (x ^^^ y) = literalBit x ^^^ literalBit y := by
  simp only [literalBit, BitVec.getLsbD_xor, BitVec.shiftLeft_xor_distrib, ite_xor_poly]

theorem repeat8_xor {f : Word16 → Word16} (hf : ∀ x y, f (x ^^^ y) = f x ^^^ f y) (x y : Word16) :
    repeat8 f (x ^^^ y) = repeat8 f x ^^^ repeat8 f y := by
  simp only [repeat8, hf]

theorem crcUpdAt_xor (base : CrcBase) (x y : Word16) (b c : Byte) :
    crcUpdAt base (x ^^^ y) (b ^^^ c) = crcUpdAt base x b ^^^ crcUpdAt base y c := by
  have hswap : ∀ u v : Word16, (x ^^^ y) ^^^ (u ^^^ v) = (x ^^^ u) ^^^ (y ^^^ v) := fun u v => by ac_rfl
  cases base with
  | arcReflected =>
    simp only [crcUpdAt, crcUpdArc, BitVec.setWidth_xor, hswap, repeat8_xor arcBit_xor]
  | literalUnreflected =>
    simp only [crcUpdAt, crcUpdLiteral, BitVec.setWidth_xor, BitVec.shiftLeft_xor_distrib, hswap,
      repeat8_xor literalBit_xor]

/-- The registers' start values are added too, which the induction needs. -/
theorem foldl_crcUpdAt_zipWith_xor (base : CrcBase) {a b : List Byte} (hlen : a.length = b.length) (x y : Word16) :
    (List.zipWith (fun u v => u ^^^ v) a b).foldl (crcUpdAt base) (x ^^^ y) =
      a.foldl (crcUpdAt base) x ^^^ b.foldl (crcUpdAt base) y := by
  induction a generalizing b x y with
  | nil =>
    obtain rfl : b = [] := List.length_eq_zero_iff.mp hlen.symm
    rfl
  | cons u a ih =>
    cases b with
    | nil => cases hlen
    | cons v b =>
      rw [List.zipWith_cons_cons, List.foldl_cons, crcUpdAt_xor, ih (Nat.succ.inj hlen), List.foldl_cons,
        List.foldl_cons]

theorem accOf_zipWith_xor (base : CrcBase) {a b : List Byte} (hlen : a.length = b.length) :
    accOf base (List.zipWith (fun u v => u ^^^ v) a b) = accOf base a ^^^ accOf base b :=
  foldl_crcUpdAt_zipWith_xor base hlen 0x0000 0x0000

end Sys2Proof.Machine

namespace Sys2Proof.Proofs

open Sys2Proof.Machine

/-- Settles O14: each of the three runs leaves ACC of its bytes, and ACC is linear (`accOf_zipWith_xor`). -/
theorem crcIsLinear : Obligations.CrcIsLinear := by
  intro s a b hlen
  obtain ⟨ta, hruna, hacca⟩ := feedAll_crcBytesLines a s
  obtain ⟨tb, hrunb, haccb⟩ := feedAll_crcBytesLines b s
  obtain ⟨tx, hrunx, haccx⟩ := feedAll_crcBytesLines (List.zipWith (fun u v => u ^^^ v) a b) s
  refine ⟨ta, tb, tx, hruna, hrunb, hrunx, ?_⟩
  rw [haccx, hacca, haccb, accOf_zipWith_xor s.config.crcBase hlen]

end Sys2Proof.Proofs
end

section
/-! The operations of the frame encoder one by one (41_frame_encoder.md R97 to R104): the registers each branch leaves,
and what an operation then answers. -/

namespace Sys2Proof.Machine

/-! ## The operands -/

/-- `legal_target_char` (R103) over the character's number. -/
theorem legalTargetChar_iff_toNat (c : Byte) : legalTargetChar c = true ↔
    0x21 ≤ c.toNat ∧ c.toNat ≤ 0x7E ∧ c.toNat ≠ 0x28 ∧ c.toNat ≠ 0x29 := by
  simp [legalTargetChar_iff, BitVec.le_def, ← BitVec.toNat_inj, chLParen, chRParen]

theorem hiNibble_toNat (b : Byte) : (hiNibble b).toNat = b.toNat / 16 := by
  have hlt : b.toNat < 256 := b.isLt
  rw [hiNibble, BitVec.extractLsb'_toNat, Nat.shiftRight_eq_div_pow]
  omega

theorem loNibble_toNat (b : Byte) : (loNibble b).toNat = b.toNat % 16 := by
  rw [loNibble, BitVec.extractLsb'_toNat, Nat.shiftRight_zero]

/-! ## The registers, branch by branch -/

section
variable {f : FencRegs}

theorem fencTgtRegs_of_body (c : Byte) (h : f.phase = .body) : fencTgtRegs c f = fencFail f .encSeq := if_pos h

theorem fencTgtRegs_of_illegal {c : Byte} (h : f.phase ≠ .body) (hc : legalTargetChar c = false) :
    fencTgtRegs c f = fencFail f .encChar := by
  simp [fencTgtRegs, h, hc]

theorem fencTgtRegs_of_legal {c : Byte} (h : f.phase ≠ .body) (hc : legalTargetChar c = true) :
    fencTgtRegs c f = fencOne .target c := by
  simp [fencTgtRegs, h, hc]

theorem fencOpenRegs_of_target (h : f.phase = .target) : fencOpenRegs f = fencOne .body chLParen := if_pos h

theorem fencOpenRegs_of_ne_target (h : f.phase ≠ .target) : fencOpenRegs f = fencFail f .encSeq := if_neg h

theorem fencHexRegs_of_body (b : Byte) (h : f.phase = .body) :
    fencHexRegs b f = fencTwo .body (hexchar (hiNibble b)) (hexchar (loNibble b)) := if_pos h

theorem fencHexRegs_of_ne_body (b : Byte) (h : f.phase ≠ .body) : fencHexRegs b f = fencFail f .encSeq := if_neg h

theorem fencCloseRegs_of_body (h : f.phase = .body) : fencCloseRegs f = fencTwo .idle chRParen chLF := if_pos h

theorem fencCloseRegs_of_ne_body (h : f.phase ≠ .body) : fencCloseRegs f = fencFail f .encSeq := if_neg h

end

/-! ## The answer -/

section
variable {i : Instr} {s : State} {g : FencRegs}

/-- An operation that raises no code changes nothing but FENC's registers. -/
theorem exec_fenc_of_err_none (hunit : i.unit = .fenc) (hregs : fencAfter i s.fenc = g) (hok : g.err = .none) :
    exec i s = .next { s with fenc := g } := by
  simp [exec_fenc i hunit, hregs, hok]

/-- Whatever code it raises, an operation changes nothing but FENC's registers and the fault log. -/
theorem exec_fenc_up_to_log (hunit : i.unit = .fenc) (hregs : fencAfter i s.fenc = g) :
    ∃ t, exec i s = .next t ∧ { t with log := s.log } = { s with fenc := g } :=
  ⟨_, exec_fenc i hunit s, by rw [hregs]⟩

end

end Sys2Proof.Machine

namespace Sys2Proof.Proofs

open Sys2Proof.Machine

/-- Settles O16: none of the four operations raises a code. -/
theorem fencNopAbortReservedResults : Obligations.FencNopAbortReservedResults := fun _ =>
  ⟨exec_fenc_of_err_none (i := .fencNop) rfl rfl rfl, exec_fenc_of_err_none (i := .fencAbort) rfl rfl rfl,
    exec_fenc_of_err_none (i := .fencRsvd6) rfl rfl rfl, exec_fenc_of_err_none (i := .fencRsvd7) rfl rfl rfl⟩

/-- Settles O17: one clause for each branch of `fencTgtRegs`; the five targets are evaluated. -/
theorem fencTargetResult : Obligations.FencTargetResult := by
  refine ⟨legalTargetChar_iff_toNat, fun s c hbody => ?_, fun s c hphase hc => ?_, fun s c hphase hc => ?_, by decide⟩
  · rw [← hbody]
    exact exec_fenc_up_to_log rfl (fencTgtRegs_of_body c hbody)
  · exact exec_fenc_up_to_log rfl (fencTgtRegs_of_illegal hphase hc)
  · exact exec_fenc_of_err_none rfl (fencTgtRegs_of_legal hphase hc) rfl

/-- Settles O18: one clause for each branch of `fencOpenRegs`. -/
theorem fencOpenResult : Obligations.FencOpenResult :=
  ⟨fun _ htarget => exec_fenc_of_err_none rfl (fencOpenRegs_of_target htarget) rfl,
    fun _ hphase => exec_fenc_up_to_log rfl (fencOpenRegs_of_ne_target hphase)⟩

/-- Settles O19: the two bytes are the digits of the byte's nibbles, whose values are its quotient and remainder by 16. -/
theorem fencHexResult : Obligations.FencHexResult := by
  refine ⟨fun s b hbody => ⟨hexchar (hiNibble b), hexchar (loNibble b), ?_, ?_, ?_⟩, fun s b hphase => ?_⟩
  · rw [hexchar_toNat, hiNibble_toNat]
  · rw [hexchar_toNat, loNibble_toNat]
  · exact exec_fenc_of_err_none rfl (fencHexRegs_of_body b hbody) rfl
  · exact exec_fenc_up_to_log rfl (fencHexRegs_of_ne_body b hphase)

/-- Settles O20: one clause for each branch of `fencCloseRegs`. -/
theorem fencCloseResult : Obligations.FencCloseResult :=
  ⟨fun _ hbody => exec_fenc_of_err_none rfl (fencCloseRegs_of_body hbody) rfl,
    fun _ hphase => exec_fenc_up_to_log rfl (fencCloseRegs_of_ne_body hphase)⟩

end Sys2Proof.Proofs
end

section
/-! What a run of FENC operations emits. An operation that reports no error leaves registers that its operand and the
phase before it fix, so a run is described by the phase it starts in, the phase it ends in and its bytes
(41_frame_encoder.md R96, R105): `EmitsBytes`, built one operation at a time from the end of the frame. -/

namespace Sys2Proof.Machine

/-! ## One cycle of a FENC operation -/

theorem decodeFenc_opLine {i : Instr} (hunit : i.unit = .fenc) : decodeFenc (lineInputs (opLine i)).fenc = i := by
  cases i with
  | fencTgt c =>
    have hvec : (lineInputs (opLine (.fencTgt c))).fenc = cmdVec 0b001#3 c := rfl
    simp [hvec, decodeFenc, cmdVec_op, dinOf_cmdVec]
  | fencHex b =>
    have hvec : (lineInputs (opLine (.fencHex b))).fenc = cmdVec 0b011#3 b := rfl
    simp [hvec, decodeFenc, cmdVec_op, dinOf_cmdVec]
  | fencNop | fencOpen | fencClose | fencAbort | fencRsvd6 | fencRsvd7 => rfl
  | _ => cases hunit

theorem programOf_map_opLine_cons (i : Instr) (ops : List Instr) :
    programOf ((i :: ops).map opLine) = lineInputs (opLine i) :: programOf (ops.map opLine) := rfl

theorem lineInputs_opLine_rst (i : Instr) : (lineInputs (opLine i)).rst = false := by cases i <;> rfl

theorem feed_opLine_fenc {i : Instr} (hunit : i.unit = .fenc) (s : State) :
    ∃ t, feed (lineInputs (opLine i)) s = .next t ∧ t.fenc = fencAfter i s.fenc :=
  ⟨_, feed_eq _ s, by simp [fencCycle, lineInputs_opLine_rst, decodeFenc_opLine hunit]⟩

/-! ## What a run's first cycle contributes -/

section
variable {l : CycleIn} {s t : State}

theorem feedAll_cons_of_feed (ls : List CycleIn) (h : feed l s = .next t) : feedAll (l :: ls) s = feedAll ls t := by
  rw [feedAll_cons, h, andThen_next]

theorem collectFenc_cons (ls : List CycleIn) (h : feed l s = .next t) :
    collectFenc (l :: ls) s = fencBytes t.fenc ++ collectFenc ls t := by
  simp [collectFenc, h]

theorem fencClean_cons (ls : List CycleIn) (h : feed l s = .next t) :
    fencClean (l :: ls) s = (t.fenc.err == .none && fencClean ls t) := by
  simp [fencClean, h]

end

/-! ## Runs by phase -/

/-- From every state with FENC in phase `p`, the operations, one in each cycle, report no error, produce exactly the
bytes `out`, and leave FENC in phase `q`. -/
def EmitsBytes (ops : List Instr) (p q : FencPhase) (out : List Byte) : Prop :=
  ∀ s : State, s.fenc.phase = p →
    ∃ u, feedAll (programOf (ops.map opLine)) s = .next u ∧ u.fenc.phase = q ∧
      fencClean (programOf (ops.map opLine)) s = true ∧ collectFenc (programOf (ops.map opLine)) s = out

theorem emitsBytes_nil (p : FencPhase) : EmitsBytes [] p p [] := fun s hp => ⟨s, rfl, hp, rfl, rfl⟩

/-- An operation that from phase `p` always leaves the registers `g`, in front of a run from `g`'s phase. -/
theorem EmitsBytes.cons {i : Instr} {g : FencRegs} {ops : List Instr} {p q : FencPhase} {out : List Byte}
    (hunit : i.unit = .fenc) (hregs : ∀ f : FencRegs, f.phase = p → fencAfter i f = g) (hok : g.err = .none)
    (hrest : EmitsBytes ops g.phase q out) : EmitsBytes (i :: ops) p q (fencBytes g ++ out) := by
  intro s hp
  obtain ⟨t, hfeed, hfenc⟩ := feed_opLine_fenc hunit s
  have hg : t.fenc = g := hfenc.trans (hregs s.fenc hp)
  obtain ⟨u, hrun, hq, hclean, hout⟩ := hrest t (by rw [hg])
  rw [programOf_map_opLine_cons]
  refine ⟨u, ?_, hq, ?_, ?_⟩
  · rw [feedAll_cons_of_feed _ hfeed, hrun]
  · rw [fencClean_cons _ hfeed, hg, hok, hclean]
    rfl
  · rw [collectFenc_cons _ hfeed, hg, hout]

section
variable {ops : List Instr} {q : FencPhase} {out : List Byte}

theorem EmitsBytes.tgt_cons {c : Byte} {p : FencPhase} (hp : p ≠ .body) (hc : legalTargetChar c = true)
    (h : EmitsBytes ops .target q out) : EmitsBytes (.fencTgt c :: ops) p q (c :: out) :=
  .cons (g := fencOne .target c) rfl (fun _ hf => fencTgtRegs_of_legal (hf ▸ hp) hc) rfl h

theorem EmitsBytes.open_cons (h : EmitsBytes ops .body q out) :
    EmitsBytes (.fencOpen :: ops) .target q (chLParen :: out) :=
  .cons (g := fencOne .body chLParen) rfl (fun _ => fencOpenRegs_of_target) rfl h

theorem EmitsBytes.hex_cons (b : Byte) (h : EmitsBytes ops .body q out) :
    EmitsBytes (.fencHex b :: ops) .body q (hexPair b ++ out) :=
  .cons (g := fencTwo .body _ _) rfl (fun _ => fencHexRegs_of_body b) rfl h

theorem EmitsBytes.close_cons (h : EmitsBytes ops .idle q out) :
    EmitsBytes (.fencClose :: ops) .body q (chRParen :: chLF :: out) :=
  .cons (g := fencTwo .idle chRParen chLF) rfl (fun _ => fencCloseRegs_of_body) rfl h

/-- Once FENC is in TARGET, any number of further target characters, none included. -/
theorem EmitsBytes.tgts_append {t : List Byte} (ht : ∀ c ∈ t, legalTargetChar c = true)
    (h : EmitsBytes ops .target q out) : EmitsBytes (t.map .fencTgt ++ ops) .target q (t ++ out) := by
  induction t with
  | nil => exact h
  | cons c t ih =>
    obtain ⟨hc, ht⟩ := List.forall_mem_cons.mp ht
    exact (ih ht).tgt_cons (by decide) hc

theorem EmitsBytes.hexes_append (d : List Byte) (h : EmitsBytes ops .body q out) :
    EmitsBytes (d.map .fencHex ++ ops) .body q (d.flatMap hexPair ++ out) := by
  induction d with
  | nil => exact h
  | cons b d ih =>
    rw [List.flatMap_cons, List.append_assoc]
    exact ih.hex_cons b

end

/-! ## A whole frame -/

/-- The operations of `fenc.frame` (30_encoding.md R69). -/
def frameOps (t d : List Byte) : List Instr :=
  t.map .fencTgt ++ .fencOpen :: (d.map .fencHex ++ [.fencClose])

theorem fencFrameLines_eq_map_opLine (t d : List Byte) : fencFrameLines t d = (frameOps t d).map opLine := by
  simp [fencFrameLines, frameOps, Function.comp_def]

theorem emitsBytes_frameOps {t : List Byte} (ht : legalTarget t = true) (d : List Byte) :
    EmitsBytes (frameOps t d) .idle .idle (encFrame t d) := by
  have htail : EmitsBytes (.fencOpen :: (d.map .fencHex ++ [.fencClose])) .target .idle
      (chLParen :: (d.flatMap hexPair ++ [chRParen, chLF])) :=
    ((emitsBytes_nil .idle).close_cons.hexes_append d).open_cons
  have hframe : encFrame t d = t ++ chLParen :: (d.flatMap hexPair ++ [chRParen, chLF]) := by
    simp [encFrame, chLParen, chRParen, chLF]
  rw [hframe]
  cases t with
  | nil => cases ht
  | cons c t =>
    obtain ⟨hc, ht⟩ : legalTargetChar c = true ∧ ∀ c ∈ t, legalTargetChar c = true := by
      simpa [legalTarget] using ht
    exact (htail.tgts_append ht).tgt_cons (by decide) hc

theorem encFrame_length (t d : List Byte) : (encFrame t d).length = t.length + 2 * d.length + 3 := by
  have hbody : (d.flatMap hexPair).length = 2 * d.length := by
    simp [List.length_flatMap, hexPair, Nat.mul_comm]
  simp only [encFrame, List.length_append, hbody, List.length_cons, List.length_nil]
  omega

end Sys2Proof.Machine

namespace Sys2Proof.Proofs

open Sys2Proof.Machine

/-- Settles O21: the frame's operations take FENC from IDLE to IDLE and emit `encFrame` (`emitsBytes_frameOps`). -/
theorem encoderEmitsTheFrame : Obligations.EncoderEmitsTheFrame := by
  intro s t d hidle ht
  obtain ⟨u, hrun, hphase, hclean, hout⟩ := emitsBytes_frameOps ht d s hidle
  rw [← fencFrameLines_eq_map_opLine] at hrun hclean hout
  exact ⟨u, hrun, hphase, hclean, hout, by rw [hout, encFrame_length]⟩

end Sys2Proof.Proofs
end

section
/-! The operations of the frame decoder one by one (42_frame_decoder.md R116 to R128): the registers each branch leaves,
the code it raises, and what an operation then answers. -/

namespace Sys2Proof.Machine

/-! ## The operands -/

/-- `{hi, lo}` as a number (20_memory.md R38). -/
theorem ofNibbles_toNat (hi lo : Nibble) : (ofNibbles hi lo).toNat = 16 * hi.toNat + lo.toNat := by
  rw [ofNibbles, BitVec.toNat_append, ← Nat.shiftLeft_add_eq_or_of_lt lo.isLt, Nat.shiftLeft_eq]
  omega

theorem histCount_val (n : Fin 3) : (histCount n).val = min (n.val + 1) 2 := by revert n; decide

theorem fdecHistHex_iff (d : FdecRegs) :
    fdecHistHex d = true ↔ d.nhist = 2 ∧ ishex d.prev2 = true ∧ ishex d.prev1 = true := by
  simp [fdecHistHex, and_assoc]

theorem ne_of_ishex {c e : Byte} (hc : ishex c = true) (he : ishex e = false) : c ≠ e := by
  rintro rfl
  simp [hc] at he

/-! ## The registers of CHR, branch by branch -/

section
variable {d : FdecRegs} {c : Byte}

theorem fdecChrRegs_of_scan (c : Byte) (hphase : d.phase = .scan) : fdecChrRegs c d = fdecChrScan c d := by
  simp [fdecChrRegs, hphase]

theorem fdecChrRegs_of_body (c : Byte) (hphase : d.phase = .body) : fdecChrRegs c d = fdecChrBody c d := by
  simp [fdecChrRegs, hphase]

theorem fdecChrRegs_of_ended (c : Byte) (hphase : d.phase = .done ∨ d.phase = .error) :
    fdecChrRegs c d = (fdecClear d, .none) := by
  obtain hphase | hphase := hphase <;> simp [fdecChrRegs, hphase]

theorem fdecChrScan_lparen (hhist : fdecHistHex d = true) :
    fdecChrScan chLParen d =
      ({ fdecClear d with
          status := ofNibbles (hexval d.prev2) (hexval d.prev1), phase := .body, nibv := false, bad := false }, .none) :=
  if_pos ⟨rfl, hhist⟩

theorem fdecChrScan_lf (d : FdecRegs) : fdecChrScan chLF d = fdecFail d .parse := by
  have hne : ¬(chLF = chLParen ∧ fdecHistHex d = true) := fun h => absurd h.1 (by decide)
  rw [fdecChrScan, if_neg hne, if_pos rfl]

theorem fdecChrScan_shift (hlf : c ≠ chLF) (hopen : ¬(c = chLParen ∧ fdecHistHex d = true)) :
    fdecChrScan c d = ({ fdecClear d with prev2 := d.prev1, prev1 := c, nhist := histCount d.nhist }, .none) := by
  rw [fdecChrScan, if_neg hopen, if_neg hlf]

theorem fdecChrBody_rparen_whole (hbad : d.bad = false) (hnib : d.nibv = false) :
    fdecChrBody chRParen d = ({ fdecClear d with phase := .done }, .none) := by
  simp [fdecChrBody, hbad, hnib]

theorem fdecChrBody_rparen_broken (h : d.bad = true ∨ d.nibv = true) :
    fdecChrBody chRParen d = fdecFail d .hex := by
  rw [fdecChrBody, if_pos rfl, if_pos h]

theorem fdecChrBody_lf (d : FdecRegs) : fdecChrBody chLF d = fdecFail d .parse := by
  rw [fdecChrBody, if_neg (by decide), if_pos rfl]

theorem fdecChrBody_after_bad (hclose : c ≠ chRParen) (hlf : c ≠ chLF) (hbad : d.bad = true) :
    fdecChrBody c d = (fdecClear d, .none) := by
  simp [fdecChrBody, hclose, hlf, hbad]

theorem fdecChrBody_first_digit (hbad : d.bad = false) (hhex : ishex c = true) (hnib : d.nibv = false) :
    fdecChrBody c d = ({ fdecClear d with nib := hexval c, nibv := true }, .none) := by
  simp [fdecChrBody, ne_of_ishex hhex ishex_rparen, ne_of_ishex hhex ishex_lf, hbad, hhex, hnib]

theorem fdecChrBody_second_digit (hbad : d.bad = false) (hhex : ishex c = true) (hnib : d.nibv = true) :
    fdecChrBody c d =
      ({ fdecClear d with byte := ofNibbles d.nib (hexval c), bvalid := true, nibv := false }, .none) := by
  simp [fdecChrBody, ne_of_ishex hhex ishex_rparen, ne_of_ishex hhex ishex_lf, hbad, hhex, hnib]

theorem fdecChrBody_bad_char (hclose : c ≠ chRParen) (hlf : c ≠ chLF) (hbad : d.bad = false) (hhex : ishex c = false) :
    fdecChrBody c d = ({ fdecClear d with bad := true }, .none) := by
  simp [fdecChrBody, hclose, hlf, hbad, hhex]

end

/-! ## The answer -/

section
variable {i : Instr} {s : State} {g : FdecRegs}

/-- An operation that raises no code changes nothing but FDEC's registers. -/
theorem exec_fdec_of_not_raised (hunit : i.unit = .fdec) (hregs : fdecAfter i s.fdec = (g, .none)) :
    exec i s = .next { s with fdec := g } := by
  simp [exec_fdec i hunit, hregs]

/-- Whatever code it raises, an operation changes nothing but FDEC's registers and the fault log. -/
theorem exec_fdec_up_to_log {e : ErrCode} (hunit : i.unit = .fdec) (hregs : fdecAfter i s.fdec = (g, e)) :
    ∃ t, exec i s = .next t ∧ { t with log := s.log } = { s with fdec := g } :=
  ⟨_, exec_fdec i hunit s, by rw [hregs]⟩

/-- CHR in SCAN, where the branch raises no code. -/
theorem exec_fdecChr_of_scan {c : Byte} (hphase : s.fdec.phase = .scan) (hregs : fdecChrScan c s.fdec = (g, .none)) :
    exec (.fdecChr c) s = .next { s with fdec := g } :=
  exec_fdec_of_not_raised rfl ((fdecChrRegs_of_scan c hphase).trans hregs)

/-- CHR in BODY, where the branch raises no code. -/
theorem exec_fdecChr_of_body {c : Byte} (hphase : s.fdec.phase = .body) (hregs : fdecChrBody c s.fdec = (g, .none)) :
    exec (.fdecChr c) s = .next { s with fdec := g } :=
  exec_fdec_of_not_raised rfl ((fdecChrRegs_of_body c hphase).trans hregs)

end

end Sys2Proof.Machine

namespace Sys2Proof.Proofs

open Sys2Proof.Machine

/-- Settles O23: none of the three operations raises a code. -/
theorem fdecNopStartReservedResults : Obligations.FdecNopStartReservedResults := fun _ =>
  ⟨exec_fdec_of_not_raised (i := .fdecNop) rfl rfl, exec_fdec_of_not_raised (i := .fdecRsvd3) rfl rfl,
    exec_fdec_of_not_raised (i := .fdecStart) rfl rfl, exec_fdec_of_not_raised (i := .fdecStart) rfl rfl⟩

/-- Settles O24: one clause for each branch of `fdecChrScan`. -/
theorem fdecScanResult : Obligations.FdecScanResult := by
  refine ⟨fun s hscan hcount hfirst hsecond => ⟨_, ofNibbles_toNat _ _, ?_⟩, fun s hscan => ?_,
    fun s c hscan hlf hopen => ⟨histCount s.fdec.nhist, histCount_val _, ?_⟩⟩
  · exact exec_fdecChr_of_scan hscan (fdecChrScan_lparen ((fdecHistHex_iff _).mpr ⟨hcount, hfirst, hsecond⟩))
  · exact exec_fdec_up_to_log rfl ((fdecChrRegs_of_scan chLF hscan).trans (fdecChrScan_lf s.fdec))
  · exact exec_fdecChr_of_scan hscan (fdecChrScan_shift hlf (by rwa [fdecHistHex_iff]))

/-- Settles O25: one clause for each branch of `fdecChrBody`. -/
theorem fdecBodyResult : Obligations.FdecBodyResult := by
  refine ⟨fun s hbody hbad hnib => ?_, fun s hbody hbroken => ?_, fun s hbody => ?_,
    fun s c hbody hclose hlf hbad => ?_, fun s c hbody hbad hhex hnib => ?_,
    fun s c hbody hbad hhex hnib => ⟨_, ofNibbles_toNat _ _, ?_⟩, fun s c hbody hclose hlf hbad hhex => ?_⟩
  · exact exec_fdecChr_of_body hbody (fdecChrBody_rparen_whole hbad hnib)
  · exact exec_fdec_up_to_log rfl ((fdecChrRegs_of_body chRParen hbody).trans (fdecChrBody_rparen_broken hbroken))
  · exact exec_fdec_up_to_log rfl ((fdecChrRegs_of_body chLF hbody).trans (fdecChrBody_lf s.fdec))
  · exact exec_fdecChr_of_body hbody (fdecChrBody_after_bad hclose hlf hbad)
  · exact exec_fdecChr_of_body hbody (fdecChrBody_first_digit hbad hhex hnib)
  · exact exec_fdecChr_of_body hbody (fdecChrBody_second_digit hbad hhex hnib)
  · exact exec_fdecChr_of_body hbody (fdecChrBody_bad_char hclose hlf hbad hhex)

/-- Settles O26: in DONE and ERROR the registers after CHR are those of NOP. -/
theorem fdecIgnoresCharactersAfterTheEnd : Obligations.FdecIgnoresCharactersAfterTheEnd :=
  fun _ c hphase => exec_fdec_of_not_raised rfl (fdecChrRegs_of_ended c hphase)

end Sys2Proof.Proofs
end

section
/-! Phase ERROR and its code (42_frame_decoder.md R118): what an operation does to them from ERROR, and how it enters. -/

namespace Sys2Proof.Machine

/-- Only START leaves ERROR. -/
theorem fdecAfter_of_error {i : Instr} {d : FdecRegs} (hphase : d.phase = .error) (hstart : i ≠ .fdecStart) :
    (fdecAfter i d).1.phase = .error ∧ (fdecAfter i d).1.err = d.err := by
  cases i with
  | fdecStart => exact absurd rfl hstart
  | fdecChr c => simp [fdecAfter, fdecChrRegs_of_ended c (.inr hphase), hphase]
  | _ => exact ⟨hphase, rfl⟩

/-- Outside ERROR, CHR fails with one of FDEC's two codes or stays outside. -/
theorem fdecChrRegs_fails_or_phase_ne_error {d : FdecRegs} (c : Byte) (hphase : d.phase ≠ .error) :
    fdecChrRegs c d = fdecFail d .parse ∨ fdecChrRegs c d = fdecFail d .hex ∨ (fdecChrRegs c d).1.phase ≠ .error := by
  cases hd : d.phase with
  | scan =>
    rw [fdecChrRegs_of_scan c hd, fdecChrScan]
    split_ifs
    · simp
    · exact .inl rfl
    · simp [hd]
  | body =>
    rw [fdecChrRegs_of_body c hd, fdecChrBody]
    split_ifs
    · exact .inr (.inl rfl)
    · simp
    · exact .inl rfl
    all_goals simp [hd]
  | done => simp [fdecChrRegs_of_ended c (.inl hd), hd]
  | error => exact absurd hd hphase

/-- Only CHR enters ERROR. -/
theorem fdecAfter_enters_error {i : Instr} {d : FdecRegs} (hphase : d.phase ≠ .error)
    (herror : (fdecAfter i d).1.phase = .error) :
    (∃ c, i = .fdecChr c) ∧ ((fdecAfter i d).1.err = .parse ∨ (fdecAfter i d).1.err = .hex) := by
  cases i with
  | fdecStart => cases herror
  | fdecChr c =>
    refine ⟨⟨c, rfl⟩, ?_⟩
    obtain hparse | hhex | hne := fdecChrRegs_fails_or_phase_ne_error c hphase
    · exact .inl (by rw [fdecAfter, hparse]; rfl)
    · exact .inr (by rw [fdecAfter, hhex]; rfl)
    · exact absurd herror hne
  | _ => exact absurd herror hphase

/-! ## A whole cycle -/

section
variable {l : CycleIn}

theorem fdecCycle_of_rst (d : FdecRegs) (hrst : l.rst = true) : fdecCycle l d = (FdecRegs.reset, .none) := if_pos hrst

theorem fdecCycle_of_not_rst (d : FdecRegs) (hrst : l.rst = false) :
    fdecCycle l d = fdecAfter (decode (.fdec l.fdec)) d := by
  simp [fdecCycle, hrst, decode]

end

end Sys2Proof.Machine

namespace Sys2Proof.Proofs

open Sys2Proof.Machine

/-- Settles O27: a cycle is a reset, which leaves SCAN with code 0, or the decoded operation, for which the lemmas on
leaving and entering ERROR speak. -/
theorem fdecErrorIsSticky : Obligations.FdecErrorIsSticky := by
  intro s l
  refine ⟨_, feed_eq l s, fun hphase hrst hstart => ?_, fun hphase herror => ?_, fun hphase hleft => ?_⟩
  · simp only [fdecCycle_of_not_rst _ hrst]
    exact fdecAfter_of_error hphase hstart
  · cases hrst : l.rst with
    | true =>
      rw [fdecCycle_of_rst _ hrst] at herror
      cases herror
    | false =>
      simp only [fdecCycle_of_not_rst _ hrst] at herror ⊢
      obtain ⟨hchr, herr⟩ := fdecAfter_enters_error hphase herror
      exact ⟨trivial, hchr, herr.imp (congrArg ErrCode.code) (congrArg ErrCode.code)⟩
  · cases hrst : l.rst with
    | true =>
      rw [fdecCycle_of_rst _ hrst]
      rfl
    | false =>
      simp only [fdecCycle_of_not_rst _ hrst] at hleft ⊢
      have hstart : decode (.fdec l.fdec) = .fdecStart :=
        not_not.mp fun hne => hleft (fdecAfter_of_error hphase hne).1
      rw [hstart]
      rfl

end Sys2Proof.Proofs
end

section
/-! What START and CHR of every character of a text answer (42_frame_decoder.md R134), said over FDEC's registers alone:
`decFrom`, character by character, with the bytes strobed so far. -/

namespace Sys2Proof.Machine

/-! ## One cycle of an FDEC operation -/

theorem decodeFdec_opLine {i : Instr} (hunit : i.unit = .fdec) : decodeFdec (lineInputs (opLine i)).fdec = i := by
  cases i with
  | fdecChr c =>
    have hvec : (lineInputs (opLine (.fdecChr c))).fdec = cmdVec 0b10#2 c := rfl
    simp [hvec, decodeFdec, cmdVec_op, dinOf_cmdVec]
  | fdecNop | fdecStart | fdecRsvd3 => rfl
  | _ => cases hunit

theorem feed_opLine_fdec {i : Instr} (hunit : i.unit = .fdec) (s : State) :
    ∃ t, feed (lineInputs (opLine i)) s = .next t ∧ t.fdec = (fdecAfter i s.fdec).1 :=
  ⟨_, feed_eq _ s, by simp [fdecCycle, lineInputs_opLine_rst, decodeFdec_opLine hunit]⟩

theorem collectFdec_cons {l : CycleIn} {s t : State} (ls : List CycleIn) (h : feed l s = .next t) :
    collectFdec (l :: ls) s = fdecStrobe t.fdec ++ collectFdec ls t := by
  simp [collectFdec, h]

/-! ## A text -/

/-- The outcome after CHR over the text from the registers `d`, where `strobed` are the bytes strobed before. -/
def decFrom : List Byte → FdecRegs → List Byte → DecOutcome
  | [], d, strobed => decOutcome d strobed
  | c :: cs, d, strobed => decFrom cs (fdecChrRegs c d).1 (strobed ++ fdecStrobe (fdecChrRegs c d).1)

@[simp] theorem decFrom_nil (d : FdecRegs) (strobed : List Byte) : decFrom [] d strobed = decOutcome d strobed := rfl

/-- A character whose branch of CHR is known. -/
theorem decFrom_cons {c : Byte} {d g : FdecRegs} {e : ErrCode} (cs strobed : List Byte)
    (hregs : fdecChrRegs c d = (g, e)) : decFrom (c :: cs) d strobed = decFrom cs g (strobed ++ fdecStrobe g) := by
  rw [decFrom, hregs]

/-- The cycles of CHR over a text, from any state, answer what `decFrom` says of its registers. -/
theorem feedAll_chr (text : List Byte) (s : State) (strobed : List Byte) :
    ∃ t, feedAll (programOf ((text.map .fdecChr).map opLine)) s = .next t ∧
      decOutcome t.fdec (strobed ++ collectFdec (programOf ((text.map .fdecChr).map opLine)) s) =
        decFrom text s.fdec strobed := by
  induction text generalizing s strobed with
  | nil => exact ⟨s, rfl, by simp [programOf, collectFdec]⟩
  | cons c cs ih =>
    obtain ⟨t, hfeed, hfdec⟩ := feed_opLine_fdec (i := .fdecChr c) rfl s
    obtain ⟨u, hrun, hout⟩ := ih t (strobed ++ fdecStrobe t.fdec)
    rw [List.map_cons, programOf_map_opLine_cons]
    refine ⟨u, ?_, ?_⟩
    · rw [feedAll_cons_of_feed _ hfeed, hrun]
    · rw [collectFdec_cons _ hfeed, ← List.append_assoc, hout, hfdec]
      rfl

theorem fdecLineLines_eq_map_opLine (text : List Byte) :
    fdecLineLines text = (.fdecStart :: text.map .fdecChr : List Instr).map opLine := by
  simp [fdecLineLines, Function.comp_def]

/-- DEC does not depend on the state START finds. -/
theorem decText_eq_decFrom (text : List Byte) (s : State) : decText text s = some (decFrom text fdecStartRegs []) := by
  obtain ⟨t, hfeed, hfdec⟩ := feed_opLine_fdec (i := .fdecStart) rfl s
  have hstart : t.fdec = fdecStartRegs := hfdec
  obtain ⟨u, hrun, hout⟩ := feedAll_chr text t []
  rw [hstart, List.nil_append] at hout
  have hquiet : fdecStrobe fdecStartRegs = [] := rfl
  rw [decText, fdecLineLines_eq_map_opLine, programOf_map_opLine_cons, feedAll_cons_of_feed _ hfeed, hrun,
    collectFdec_cons _ hfeed, hstart, hquiet, List.nil_append, ← hout]
  rfl

/-! ## Texts by the phase they start in -/

section
variable {d : FdecRegs}

theorem fdecStrobe_of_not_bvalid (h : d.bvalid = false) : fdecStrobe d = [] := by simp [fdecStrobe, h]

theorem decFrom_of_done (text strobed : List Byte) (hphase : d.phase = .done) :
    decFrom text d strobed = .ok d.status strobed := by
  induction text generalizing d with
  | nil => simp [decOutcome, hphase]
  | cons c cs ih =>
    rw [decFrom_cons _ _ (fdecChrRegs_of_ended c (.inl hphase)), fdecStrobe_of_not_bvalid rfl, List.append_nil,
      ih (d := fdecClear d) hphase, fdecClear_status]

theorem decFrom_of_error (text strobed : List Byte) (hphase : d.phase = .error) :
    decFrom text d strobed = .err d.err := by
  induction text generalizing d strobed with
  | nil => simp [decOutcome, hphase]
  | cons c cs ih => rw [decFrom_cons _ _ (fdecChrRegs_of_ended c (.inr hphase)), ih (d := fdecClear d) _ hphase,
      fdecClear_err]

/-- A character that fails fixes the outcome. -/
theorem decFrom_cons_of_fail {c : Byte} {e : ErrCode} (cs strobed : List Byte)
    (hregs : fdecChrRegs c d = fdecFail d e) : decFrom (c :: cs) d strobed = .err e := by
  rw [decFrom_cons _ _ hregs, decFrom_of_error _ _ rfl]

/-- In BODY a character that is neither `)` nor LF keeps the phase. -/
theorem fdecChrRegs_body_phase {c : Byte} (hbody : d.phase = .body) (hclose : c ≠ chRParen) (hlf : c ≠ chLF) :
    (fdecChrRegs c d).1.phase = .body := by
  rw [fdecChrRegs_of_body c hbody, fdecChrBody, if_neg hclose, if_neg hlf]
  split_ifs <;> exact hbody

/-- A body without `)` is a parse error, whatever it holds (R120). -/
theorem decFrom_body_unclosed {text : List Byte} (strobed : List Byte) (hbody : d.phase = .body)
    (hclose : chRParen ∉ text) : decFrom (text ++ [chLF]) d strobed = .err .parse := by
  induction text generalizing d strobed with
  | nil => exact decFrom_cons_of_fail _ _ ((fdecChrRegs_of_body chLF hbody).trans (fdecChrBody_lf d))
  | cons c cs ih =>
    obtain ⟨hc, hcs⟩ := List.ne_and_not_mem_of_not_mem_cons hclose
    by_cases hlf : c = chLF
    · subst hlf
      exact decFrom_cons_of_fail _ _ ((fdecChrRegs_of_body chLF hbody).trans (fdecChrBody_lf d))
    · exact ih _ (fdecChrRegs_body_phase hbody hc.symm hlf) hcs

/-- The characters of a body, up to its `)`: no `)` and no LF among them. -/
def BodyText (body : List Byte) : Prop := ∀ c ∈ body, c ≠ chRParen ∧ c ≠ chLF

/-- `)` after a bad character or half a byte. -/
theorem decFrom_body_broken (rest strobed : List Byte) (hbody : d.phase = .body) (h : d.bad = true ∨ d.nibv = true) :
    decFrom (chRParen :: rest) d strobed = .err .hex :=
  decFrom_cons_of_fail _ _ ((fdecChrRegs_of_body chRParen hbody).trans (fdecChrBody_rparen_broken h))

/-- `)` after whole bytes. -/
theorem decFrom_body_whole (rest strobed : List Byte) (hbody : d.phase = .body) (hbad : d.bad = false)
    (hnib : d.nibv = false) : decFrom (chRParen :: rest) d strobed = .ok d.status strobed := by
  rw [decFrom_cons _ _ ((fdecChrRegs_of_body chRParen hbody).trans (fdecChrBody_rparen_whole hbad hnib)),
    decFrom_of_done _ _ rfl, fdecStrobe_of_not_bvalid rfl, List.append_nil]
  rfl

/-- The first digit of a byte waits as the pending nibble. -/
theorem decFrom_first_digit {a : Byte} (hbody : d.phase = .body) (hbad : d.bad = false) (hnib : d.nibv = false)
    (hhex : ishex a = true) :
    ∃ g : FdecRegs, g.phase = .body ∧ g.bad = false ∧ g.nibv = true ∧ g.nib = hexval a ∧ g.status = d.status ∧
      ∀ cs strobed, decFrom (a :: cs) d strobed = decFrom cs g strobed := by
  have hregs := (fdecChrRegs_of_body a hbody).trans (fdecChrBody_first_digit hbad hhex hnib)
  refine ⟨(fdecChrRegs a d).1, ?_⟩
  rw [hregs]
  refine ⟨hbody, hbad, rfl, rfl, rfl, fun cs strobed => ?_⟩
  rw [decFrom_cons cs strobed hregs, fdecStrobe_of_not_bvalid rfl, List.append_nil]

/-- The second digit strobes the byte. -/
theorem decFrom_second_digit {b : Byte} (hbody : d.phase = .body) (hbad : d.bad = false) (hnib : d.nibv = true)
    (hhex : ishex b = true) :
    ∃ g : FdecRegs, g.phase = .body ∧ g.bad = false ∧ g.nibv = false ∧ g.status = d.status ∧
      ∀ cs strobed, decFrom (b :: cs) d strobed = decFrom cs g (strobed ++ [ofNibbles d.nib (hexval b)]) := by
  have hregs := (fdecChrRegs_of_body b hbody).trans (fdecChrBody_second_digit hbad hhex hnib)
  refine ⟨(fdecChrRegs b d).1, ?_⟩
  rw [hregs]
  exact ⟨hbody, hbad, rfl, rfl, fun cs strobed => decFrom_cons cs strobed hregs⟩

/-- A bad character is remembered up to the `)`. -/
theorem decFrom_body_bad {body : List Byte} (rest strobed : List Byte) (hbody : d.phase = .body) (hbad : d.bad = true)
    (htext : BodyText body) : decFrom (body ++ chRParen :: rest) d strobed = .err .hex := by
  induction body generalizing d strobed with
  | nil => exact decFrom_body_broken rest strobed hbody (.inl hbad)
  | cons c cs ih =>
    obtain ⟨⟨hclose, hlf⟩, hcs⟩ := List.forall_mem_cons.mp htext
    rw [List.cons_append, decFrom_cons _ _ ((fdecChrRegs_of_body c hbody).trans (fdecChrBody_after_bad hclose hlf hbad))]
    exact ih _ hbody hbad hcs

/-- In BODY a character that is no hex digit decides for E_HEX, wherever it stands in a byte. -/
theorem decFrom_body_bad_char {c : Byte} {body : List Byte} (rest strobed : List Byte) (hbody : d.phase = .body)
    (hbad : d.bad = false) (hhex : ishex c = false) (htext : BodyText (c :: body)) :
    decFrom (c :: body ++ chRParen :: rest) d strobed = .err .hex := by
  obtain ⟨⟨hclose, hlf⟩, hbodyText⟩ := List.forall_mem_cons.mp htext
  rw [List.cons_append,
    decFrom_cons _ _ ((fdecChrRegs_of_body c hbody).trans (fdecChrBody_bad_char hclose hlf hbad hhex))]
  exact decFrom_body_bad rest _ hbody rfl hbodyText

/-- A closed body decodes as `hexDecode` says, with the bytes strobed before it in front. -/
theorem decFrom_body_closed (body rest strobed : List Byte) (hbody : d.phase = .body) (hbad : d.bad = false)
    (hnib : d.nibv = false) (htext : BodyText body) :
    decFrom (body ++ chRParen :: rest) d strobed =
      (hexDecode body).elim (.err .hex) fun data => .ok d.status (strobed ++ data) := by
  induction body using hexDecode.induct generalizing d strobed with
  | case1 => simp [decFrom_body_whole rest strobed hbody hbad hnib, hexDecode]
  | case2 a =>
    cases ha : ishex a with
    | false => exact decFrom_body_bad_char rest strobed hbody hbad ha htext
    | true =>
      obtain ⟨g, hgbody, -, hgnib, -, -, hg⟩ := decFrom_first_digit hbody hbad hnib ha
      exact (hg _ _).trans (decFrom_body_broken rest strobed hgbody (.inr hgnib))
  | case3 a b r hdigits ih =>
    obtain ⟨ha, hb⟩ : ishex a = true ∧ ishex b = true := by simpa using hdigits
    obtain ⟨g, hgbody, hgbad, hgnib, hgval, hgstatus, hg⟩ := decFrom_first_digit hbody hbad hnib ha
    obtain ⟨k, hkbody, hkbad, hknib, hkstatus, hk⟩ := decFrom_second_digit hgbody hgbad hgnib hb
    have hr : BodyText r := (List.forall_mem_cons.mp (List.forall_mem_cons.mp htext).2).2
    rw [List.cons_append, List.cons_append, hg, hk, ih _ hkbody hkbad hknib hr, hexDecode, if_pos hdigits, hgval,
      hkstatus, hgstatus]
    cases hexDecode r <;> simp
  | case4 a b r hdigits =>
    rw [hexDecode, if_neg hdigits]
    cases ha : ishex a with
    | false => exact decFrom_body_bad_char rest strobed hbody hbad ha htext
    | true =>
      obtain ⟨g, hgbody, hgbad, -, -, -, hg⟩ := decFrom_first_digit hbody hbad hnib ha
      have hb : ishex b = false := by simpa [ha] using hdigits
      exact (hg _ _).trans (decFrom_body_bad_char rest strobed hgbody hgbad hb (List.forall_mem_cons.mp htext).2)

end

end Sys2Proof.Machine
end

section
/-! The reference of 42_frame_decoder.md R123: where the search for two hex digits, `(`, a body and `)` succeeds, where
it goes on, and what its answer says of the text. -/

namespace Sys2Proof.Machine

section
variable {h l c : Byte} {rest : List Byte}

theorem regexSearch_of_match (hh : ishex h = true) (hl : ishex l = true) (hclose : chRParen ∈ rest) :
    regexSearch (h :: l :: chLParen :: rest) = some (h, l, rest.takeWhile fun b => b != chRParen) := by
  have htest : (ishex h && ishex l && chLParen == 0x28#8 && rest.contains 0x29#8) = true := by
    have hcontains : rest.contains 0x29#8 = true := List.contains_iff_mem.mpr hclose
    rw [hh, hl, hcontains]
    rfl
  rw [regexSearch, if_pos htest]
  rfl

theorem regexSearch_of_no_match
    (hno : ¬(c = chLParen ∧ ishex h = true ∧ ishex l = true ∧ chRParen ∈ rest)) :
    regexSearch (h :: l :: c :: rest) = regexSearch (l :: c :: rest) := by
  have htest : ¬(ishex h && ishex l && c == 0x28#8 && rest.contains 0x29#8) = true := by
    simp only [Bool.and_eq_true, beq_iff_eq, List.contains_iff_mem]
    rintro ⟨⟨⟨hh, hl⟩, hc⟩, hclose⟩
    exact hno ⟨hc, hh, hl, hclose⟩
  rw [regexSearch, if_neg htest]

end

/-- A match that starts at the first character has its `(` in the third place. -/
theorem regexSearch_cons_of_third_ne (h : Byte) {text : List Byte} (hthird : text[1]? ≠ some chLParen) :
    regexSearch (h :: text) = regexSearch text := by
  match text with
  | [] => rfl
  | [_] => rfl
  | l :: c :: rest => exact regexSearch_of_no_match fun ⟨hc, _⟩ => hthird (by simp [hc])

/-- A `)` in one of the first three places cannot close a match. -/
theorem regexSearch_eq_none_of_no_rparen {text : List Byte} (hclose : chRParen ∉ text.drop 3) :
    regexSearch text = none := by
  induction text with
  | nil => rfl
  | cons h text ih =>
    rw [List.drop_succ_cons] at hclose
    have hrest : regexSearch text = none := ih fun hmem => hclose (List.drop_subset_drop_left text (by omega) hmem)
    match text with
    | [] => rfl
    | [_] => rfl
    | l :: c :: rest => exact (regexSearch_of_no_match fun ⟨_, _, _, hclosed⟩ => hclose hclosed).trans hrest

/-- A `(` in one of the first two places cannot be part of a match. -/
theorem regexSearch_eq_none_of_no_lparen {text : List Byte} (hopen : chLParen ∉ text.drop 2) :
    regexSearch text = none := by
  induction text with
  | nil => rfl
  | cons h text ih =>
    rw [List.drop_succ_cons] at hopen
    have hthird : text[1]? ≠ some chLParen := fun heq =>
      hopen (List.mem_of_getElem? (i := 0) (by rwa [List.getElem?_drop]))
    rw [regexSearch_cons_of_third_ne h hthird]
    exact ih fun hmem => hopen (List.drop_subset_drop_left text (by omega) hmem)

/-- Characters none of which is `(`: the search passes over all but the last two. -/
theorem regexSearch_append_of_no_lparen {u : List Byte} {first second : Byte} (tail : List Byte)
    (hopen : chLParen ∉ u ++ [first, second]) :
    regexSearch (u ++ [first, second] ++ tail) = regexSearch (first :: second :: tail) := by
  induction u with
  | nil => rfl
  | cons h u ih =>
    have hrest : chLParen ∉ u ++ [first, second] := fun hmem => hopen (List.mem_cons_of_mem h hmem)
    have hthird : (u ++ [first, second] ++ tail)[1]? ≠ some chLParen := by
      rw [List.getElem?_append_left (by simp)]
      exact fun heq => hrest (List.mem_of_getElem? heq)
    rw [List.cons_append, List.cons_append, regexSearch_cons_of_third_ne h hthird, ih hrest]

/-! ## The reference's answer -/

theorem decReference_congr {a b : List Byte} (h : regexSearch a = regexSearch b) : decReference a = decReference b := by
  rw [decReference, h, decReference]

theorem decReference_of_none {text : List Byte} (h : regexSearch text = none) : decReference text = .err .parse := by
  simp [decReference, h]

theorem decReference_of_some {text body : List Byte} {first second : Byte}
    (h : regexSearch text = some (first, second, body)) :
    decReference text =
      (hexDecode body).elim (.err .hex) fun data => .ok (ofNibbles (hexval first) (hexval second)) data := by
  rw [decReference, h]
  cases hbody : hexDecode body <;> simp [hbody]

theorem takeWhile_ne_rparen {body : List Byte} (rest : List Byte) (hclose : chRParen ∉ body) :
    (body ++ chRParen :: rest).takeWhile (fun b => b != chRParen) = body := by
  have hall : ∀ b ∈ body, (b != chRParen) = true := fun b hb => bne_iff_ne.mpr fun heq => hclose (heq ▸ hb)
  rw [List.takeWhile_append_of_pos hall]
  simp

end Sys2Proof.Machine
end

section
/-! The decoder as a search (42_frame_decoder.md R119, R123): in SCAN its history holds the last characters, at most
two, and what it answers on the rest of the text is the reference's answer on the history and the rest. -/

namespace Sys2Proof.Machine

/-- The characters of the history, the older first (42_frame_decoder.md R119). -/
def fdecHistory (d : FdecRegs) : List Byte := [d.prev2, d.prev1].drop (2 - d.nhist.val)

theorem fdecHistory_of_full {d : FdecRegs} (h : d.nhist = 2) : fdecHistory d = [d.prev2, d.prev1] := by
  simp [fdecHistory, h]

theorem fdecHistory_length_le (d : FdecRegs) : (fdecHistory d).length ≤ 2 := by
  simp [fdecHistory]

/-- Where the history and a character open no body, the search passes over what leaves the history. -/
theorem regexSearch_history_shift {d g : FdecRegs} {c : Byte} (rest : List Byte)
    (hopen : ¬(c = chLParen ∧ fdecHistHex d = true)) (hprev2 : g.prev2 = d.prev1) (hprev1 : g.prev1 = c)
    (hcount : g.nhist = histCount d.nhist) :
    regexSearch (fdecHistory g ++ rest) = regexSearch (fdecHistory d ++ c :: rest) := by
  simp only [fdecHistory, hprev2, hprev1, hcount]
  match hd : d.nhist with
  | 0 => rfl
  | 1 => rfl
  | 2 =>
    exact (regexSearch_of_no_match fun ⟨hc, hfirst, hsecond, _⟩ =>
      hopen ⟨hc, (fdecHistHex_iff d).mpr ⟨hd, hfirst, hsecond⟩⟩).symm

/-- From the opening `(` on: BODY against the match at that `(`. -/
theorem decFrom_body_eq_decReference {d : FdecRegs} {first second : Byte} {text : List Byte}
    (hbody : d.phase = .body) (hbad : d.bad = false) (hnib : d.nibv = false)
    (hstatus : d.status = ofNibbles (hexval first) (hexval second)) (hfirst : ishex first = true)
    (hsecond : ishex second = true) (hlf : chLF ∉ text) :
    decFrom (text ++ [chLF]) d [] = decReference (first :: second :: chLParen :: (text ++ [chLF])) := by
  by_cases hclose : chRParen ∈ text
  · obtain ⟨body, rest, rfl, hnone⟩ := List.eq_append_cons_of_mem hclose
    have hbodyText : BodyText body := fun c hc =>
      ⟨fun heq => hnone (heq ▸ hc), fun heq => hlf (List.mem_append_left _ (heq ▸ hc))⟩
    have hmatch := regexSearch_of_match hfirst hsecond (List.mem_append_left [chLF] hclose)
    rw [List.append_assoc, List.cons_append] at hmatch ⊢
    rw [takeWhile_ne_rparen _ hnone] at hmatch
    rw [decFrom_body_closed body (rest ++ [chLF]) [] hbody hbad hnib hbodyText, decReference_of_some hmatch, hstatus]
    rfl
  · have hnone : chRParen ∉ (first :: second :: chLParen :: (text ++ [chLF])).drop 3 := by
      rw [List.drop_succ_cons, List.drop_succ_cons, List.drop_succ_cons, List.drop_zero, List.mem_append, not_or]
      exact ⟨hclose, by decide⟩
    rw [decFrom_body_unclosed [] hbody hclose, decReference_of_none (regexSearch_eq_none_of_no_rparen hnone)]

/-- The simulation: SCAN on a text against the reference on the history and the text. -/
theorem decFrom_scan_eq_decReference {d : FdecRegs} {text : List Byte} (hscan : d.phase = .scan) (hlf : chLF ∉ text) :
    decFrom (text ++ [chLF]) d [] = decReference (fdecHistory d ++ (text ++ [chLF])) := by
  induction text generalizing d with
  | nil =>
    have hshort : (fdecHistory d ++ [chLF]).drop 3 = [] :=
      List.drop_eq_nil_of_le (by simpa using Nat.succ_le_succ (fdecHistory_length_le d))
    have hnone : regexSearch (fdecHistory d ++ [chLF]) = none :=
      regexSearch_eq_none_of_no_rparen (by simp [hshort])
    rw [List.nil_append, decReference_of_none hnone]
    exact decFrom_cons_of_fail _ _ ((fdecChrRegs_of_scan chLF hscan).trans (fdecChrScan_lf d))
  | cons c cs ih =>
    obtain ⟨hc, hcs⟩ := List.ne_and_not_mem_of_not_mem_cons hlf
    by_cases hopen : c = chLParen ∧ fdecHistHex d = true
    · obtain ⟨rfl, hhist⟩ := hopen
      obtain ⟨hfull, hfirst, hsecond⟩ := (fdecHistHex_iff d).mp hhist
      rw [List.cons_append, decFrom_cons _ _ ((fdecChrRegs_of_scan chLParen hscan).trans (fdecChrScan_lparen hhist)),
        fdecStrobe_of_not_bvalid rfl, fdecHistory_of_full hfull]
      exact decFrom_body_eq_decReference rfl rfl rfl rfl hfirst hsecond hcs
    · rw [List.cons_append, decFrom_cons _ _ ((fdecChrRegs_of_scan c hscan).trans (fdecChrScan_shift hc.symm hopen)),
        fdecStrobe_of_not_bvalid rfl, List.nil_append]
      refine (ih ?_ hcs).trans (decReference_congr (regexSearch_history_shift _ hopen rfl rfl rfl))
      exact hscan

/-- After START the history is empty. -/
theorem decText_eq_decReference {text : List Byte} (s : State) (hlf : chLF ∉ text) :
    decText (text ++ [chLF]) s = some (decReference (text ++ [chLF])) := by
  have hstart : fdecHistory fdecStartRegs = [] := rfl
  rw [decText_eq_decFrom, decFrom_scan_eq_decReference rfl hlf, hstart, List.nil_append]

end Sys2Proof.Machine

namespace Sys2Proof.Proofs

open Sys2Proof.Machine

/-- Settles O28: `decFrom_scan_eq_decReference` from the registers START leaves. -/
theorem decoderMeetsTheRegularExpression : Obligations.DecoderMeetsTheRegularExpression :=
  fun s _ hlf => decText_eq_decReference s hlf

end Sys2Proof.Proofs
end

section
/-! The round trip (42_frame_decoder.md R135): the frame FENC emits, under the reference's search. Its only `(` is the
one after the target, so the only match is at the target's last two characters. -/

namespace Sys2Proof.Machine

/-! ## The characters of a frame -/

theorem lf_not_mem_of_legal {t : List Byte} (ht : ∀ c ∈ t, legalTargetChar c = true) : chLF ∉ t :=
  fun hmem => absurd (ht chLF hmem) (by decide)

theorem lparen_not_mem_of_legal {t : List Byte} (ht : ∀ c ∈ t, legalTargetChar c = true) : chLParen ∉ t :=
  fun hmem => absurd (ht chLParen hmem) (by decide)

theorem ishex_of_mem_flatMap_hexPair {p : List Byte} {c : Byte} (hc : c ∈ p.flatMap hexPair) : ishex c = true := by
  obtain ⟨b, -, hb⟩ := List.mem_flatMap.mp hc
  obtain rfl | rfl : c = hexchar (hiNibble b) ∨ c = hexchar (loNibble b) := by simpa [hexPair] using hb
  · exact ishex_hexchar (hiNibble b)
  · exact ishex_hexchar (loNibble b)

theorem not_mem_flatMap_hexPair (p : List Byte) {c : Byte} (hc : ishex c = false) : c ∉ p.flatMap hexPair :=
  fun hmem => ne_of_ishex (ishex_of_mem_flatMap_hexPair hmem) hc rfl

theorem hexDecode_hexPair_append (b : Byte) (r : List Byte) :
    hexDecode (hexPair b ++ r) = (hexDecode r).map fun data => b :: data := by
  simp [hexPair, hexDecode, ishex_hexchar, hexval_hexchar, ofNibbles_hi_lo]

/-- Strict decoding undoes FENC.HEX. -/
theorem hexDecode_flatMap_hexPair (p : List Byte) : hexDecode (p.flatMap hexPair) = some p := by
  induction p with
  | nil => rfl
  | cons b p ih =>
    rw [List.flatMap_cons, hexDecode_hexPair_append, ih]
    rfl

/-- What follows the `(` of a frame. -/
def frameBody (p : List Byte) : List Byte := p.flatMap hexPair ++ [chRParen, chLF]

theorem encFrame_eq_append_frameBody (t p : List Byte) : encFrame t p = t ++ chLParen :: frameBody p := by
  simp [encFrame, frameBody, chLParen, chRParen, chLF]

theorem lparen_not_mem_frameBody (p : List Byte) : chLParen ∉ frameBody p := by
  rw [frameBody, List.mem_append, not_or]
  exact ⟨not_mem_flatMap_hexPair p ishex_lparen, by decide⟩

/-! ## The search -/

section
variable {first second : Byte} (p : List Byte)

theorem decReference_frame_of_hex (hfirst : ishex first = true) (hsecond : ishex second = true) :
    decReference (first :: second :: chLParen :: frameBody p) =
      .ok (ofNibbles (hexval first) (hexval second)) p := by
  have hclose : chRParen ∈ frameBody p := by simp [frameBody]
  have hmatch := regexSearch_of_match hfirst hsecond hclose
  rw [frameBody, takeWhile_ne_rparen [chLF] (not_mem_flatMap_hexPair p ishex_rparen)] at hmatch
  rw [frameBody, decReference_of_some hmatch, hexDecode_flatMap_hexPair]
  rfl

theorem decReference_frame_of_not_hex (hhex : ¬(ishex first = true ∧ ishex second = true)) :
    decReference (first :: second :: chLParen :: frameBody p) = .err .parse := by
  apply decReference_of_none
  rw [regexSearch_of_no_match fun ⟨_, hfirst, hsecond, _⟩ => hhex ⟨hfirst, hsecond⟩]
  exact regexSearch_eq_none_of_no_lparen (lparen_not_mem_frameBody p)

/-- A target of at most one character: nothing to match before the `(`. -/
theorem decReference_frame_of_short {t : List Byte} (hshort : t.length ≤ 1) :
    decReference (t ++ chLParen :: frameBody p) = .err .parse := by
  apply decReference_of_none
  apply regexSearch_eq_none_of_no_lparen
  intro hmem
  match t, hshort with
  | [], _ => exact lparen_not_mem_frameBody p (List.mem_of_mem_drop (i := 1) hmem)
  | [_], _ => exact lparen_not_mem_frameBody p hmem

end

/-- DEC of a frame is the reference's answer on it: its only LF is its last character. -/
theorem decText_encFrame {t : List Byte} (ht : ∀ c ∈ t, legalTargetChar c = true) (p : List Byte) (s : State) :
    decText (encFrame t p) s = some (decReference (encFrame t p)) := by
  have hsplit : encFrame t p = (t ++ chLParen :: (p.flatMap hexPair ++ [chRParen])) ++ [chLF] := by
    simp [encFrame, chLParen, chRParen, chLF]
  have hlf : chLF ∉ t ++ chLParen :: (p.flatMap hexPair ++ [chRParen]) := by
    simp only [List.mem_append, List.mem_cons, List.not_mem_nil, or_false, not_or]
    exact ⟨lf_not_mem_of_legal ht, by decide, not_mem_flatMap_hexPair p ishex_lf, by decide⟩
  rw [hsplit]
  exact decText_eq_decReference s hlf

end Sys2Proof.Machine

namespace Sys2Proof.Proofs

open Sys2Proof.Machine

/-- Settles O29: FENC emits `encFrame`, DEC answers the reference's answer on it, and the reference's search turns on
the target's last two characters. -/
theorem decodingAnEncodedFrame : Obligations.DecodingAnEncodedFrame := by
  intro s u t p hidle ht
  obtain ⟨-, -, -, -, hout⟩ := emitsBytes_frameOps ht p s hidle
  obtain ⟨-, hall⟩ := Bool.and_eq_true_iff.mp ht
  have hlegal : ∀ c ∈ t, legalTargetChar c = true := List.all_eq_true.mp hall
  rw [fencFrameLines_eq_map_opLine, hout, decText_encFrame hlegal]
  congr 1
  split
  next second first before hlast =>
    obtain rfl : t = before.reverse ++ [first, second] := by simpa using congrArg List.reverse hlast
    have hsearch := regexSearch_append_of_no_lparen (chLParen :: frameBody p) (lparen_not_mem_of_legal hlegal)
    rw [encFrame_eq_append_frameBody, decReference_congr hsearch]
    split_ifs with hhex
    · obtain ⟨hfirst, hsecond⟩ := Bool.and_eq_true_iff.mp hhex
      exact decReference_frame_of_hex p hfirst hsecond
    · exact decReference_frame_of_not_hex p fun h => hhex (Bool.and_eq_true_iff.mpr h)
  next hlast =>
    rw [encFrame_eq_append_frameBody]
    apply decReference_frame_of_short
    rw [← List.length_reverse]
    match hrev : t.reverse with
    | [] => simp
    | [_] => simp
    | second :: first :: before => exact absurd hrev (hlast second first before)

end Sys2Proof.Proofs
end

section
/-! The one operation of the address translator (43_address_translator.md R140 to R149): its outputs branch by branch. The
terms that R143 and R144 join by OR lie in disjoint bits, so each OR is a concatenation (R149), and a concatenation is a
sum. -/

namespace Sys2Proof.Machine

/-! ## Disjoint OR, concatenation and sum -/

/-- The OR of a value shifted past the `n` bits of another is their concatenation, in any common width. -/
theorem setWidth_shiftLeft_or_setWidth {m n : Nat} (w : Nat) (hi : BitVec m) (lo : BitVec n) :
    (hi.setWidth w <<< n) ||| lo.setWidth w = (hi ++ lo).setWidth w := by
  apply BitVec.eq_of_getLsbD_eq
  intro i hiw
  by_cases hlow : i < n
  · simp [BitVec.getLsbD_append, hlow, hiw]
  · have hpast : lo.getLsbD i = false := BitVec.getLsbD_of_ge lo i (by omega)
    simp [BitVec.getLsbD_append, hlow, hiw, hpast]

theorem toNat_append_eq_add {m n : Nat} (hi : BitVec m) (lo : BitVec n) :
    (hi ++ lo).toNat = hi.toNat * 2 ^ n + lo.toNat := by
  rw [BitVec.toNat_append, ← Nat.shiftLeft_add_eq_or_of_lt lo.isLt, Nat.shiftLeft_eq]

/-! ## The fields of the offset and the slot -/

theorem offsetBlock_toNat (offset : Word16) : (offsetBlock offset).toNat = offset.toNat / 32 := by
  rw [offsetBlock, BitVec.extractLsb'_toNat, Nat.shiftRight_eq_div_pow]
  omega

theorem offsetWord_toNat (offset : Word16) : (offsetWord offset).toNat = offset.toNat / 4 % 8 := by
  rw [offsetWord, BitVec.extractLsb'_toNat, Nat.shiftRight_eq_div_pow]

/-- Block and word are adjacent fields (R144). -/
theorem offsetBlock_append_offsetWord (offset : Word16) :
    offsetBlock offset ++ offsetWord offset = offset.extractLsb' 2 14 :=
  BitVec.extractLsb'_append_extractLsb'_eq_extractLsb' rfl

/-- A zone-2 address holds the low byte of the block. -/
theorem offsetBlock_setWidth_eight (offset : Word16) : (offsetBlock offset).setWidth 8 = offset.extractLsb' 5 8 :=
  BitVec.setWidth_extractLsb'_of_le (by omega)

/-- A slot in range is its low nibble. -/
theorem slotNibble_toNat {slot : Byte} (hslot : slot.toNat ≤ 15) : (slot.extractLsb' 0 4).toNat = slot.toNat := by
  rw [BitVec.extractLsb'_toNat, Nat.shiftRight_zero]
  omega

/-! ## The two addresses as bit fields (R149) -/

theorem configAddr_eq_append (offset : Word16) :
    ((offsetBlock offset).setWidth 16 <<< 3) ||| (offsetWord offset).setWidth 16 = 0#2 ++ offset.extractLsb' 2 14 := by
  rw [setWidth_shiftLeft_or_setWidth, offsetBlock_append_offsetWord, BitVec.setWidth_eq_append (by omega)]
  rfl

/-- Slot and word fill the low byte of a zone-2 address, but for its top bit (R143). -/
theorem slotTerm_or_wordTerm {slot : Byte} (hslot : slot.toNat ≤ 15) (word : BitVec 3) :
    (slot.setWidth 16 <<< 3) ||| word.setWidth 16 = (0#1 ++ slot.extractLsb' 0 4 ++ word).setWidth 16 := by
  rw [setWidth_shiftLeft_or_setWidth]
  apply BitVec.eq_of_toNat_eq
  simp only [BitVec.toNat_setWidth, toNat_append_eq_add, slotNibble_toNat hslot, BitVec.toNat_ofNat]
  omega

theorem dataAddr_eq_append {slot : Byte} (hslot : slot.toNat ≤ 15) (offset : Word16) :
    ((offsetBlock offset).setWidth 16 <<< 8) ||| (slot.setWidth 16 <<< 3) ||| (offsetWord offset).setWidth 16 =
      offset.extractLsb' 5 8 ++ 0#1 ++ slot.extractLsb' 0 4 ++ offset.extractLsb' 2 3 := by
  rw [BitVec.or_assoc, slotTerm_or_wordTerm hslot, setWidth_shiftLeft_or_setWidth, BitVec.setWidth_append,
    dif_neg (by omega), offsetBlock_setWidth_eight, BitVec.append_assoc', BitVec.append_assoc']
  rfl

/-! ## The outputs, branch by branch -/

section
variable {slot : Byte} {offset : Word16}

/-- Zone 0 ignores the slot and cannot overflow (R144). -/
theorem zatCalc_config (slot : Byte) (offset : Word16) :
    zatCalc 0 slot offset = { addr := 0#2 ++ offset.extractLsb' 2 14, err := .none } := by
  simp [zatCalc, configAddr_eq_append]

theorem zatCalc_data (hslot : slot.toNat ≤ 15) (hblock : offset.toNat / 32 ≤ 255) :
    zatCalc 2 slot offset =
      { addr := offset.extractLsb' 5 8 ++ 0#1 ++ slot.extractLsb' 0 4 ++ offset.extractLsb' 2 3, err := .none } := by
  simp [zatCalc, BitVec.lt_def, offsetBlock_toNat, hslot.not_gt, hblock.not_gt, dataAddr_eq_append hslot]

/-- In zone 2 the slot is checked before the block (R148). -/
theorem zatCalc_data_of_slot_gt (offset : Word16) (hslot : 15 < slot.toNat) :
    zatCalc 2 slot offset = zatFail .slot := by
  simp [zatCalc, BitVec.lt_def, hslot]

theorem zatCalc_data_of_block_gt (hslot : slot.toNat ≤ 15) (hblock : 255 < offset.toNat / 32) :
    zatCalc 2 slot offset = zatFail .addrOvf := by
  simp [zatCalc, BitVec.lt_def, offsetBlock_toNat, hslot.not_gt, hblock]

/-- The zone is checked before the slot and the block (R145, R148). -/
theorem zatCalc_of_other_zone {zone : Byte} (hconfig : zone ≠ 0) (hdata : zone ≠ 2) (slot : Byte) (offset : Word16) :
    zatCalc zone slot offset = zatFail .zone := by
  have hconfig' : zone ≠ 0#8 := hconfig
  have hdata' : zone ≠ 2#8 := hdata
  simp [zatCalc, hconfig', hdata']

/-! ## The two addresses in arithmetic -/

theorem zatCalc_config_addr_toNat (slot : Byte) (offset : Word16) :
    (zatCalc 0 slot offset).addr.toNat = offset.toNat / 32 * 8 + offset.toNat / 4 % 8 := by
  rw [zatCalc_config, ← offsetBlock_append_offsetWord]
  simp only [toNat_append_eq_add, offsetBlock_toNat, offsetWord_toNat, BitVec.toNat_ofNat]
  omega

theorem zatCalc_data_addr_toNat (hslot : slot.toNat ≤ 15) (hblock : offset.toNat / 32 ≤ 255) :
    (zatCalc 2 slot offset).addr.toNat =
      offset.toNat / 32 * 256 + slot.toNat * 8 + offset.toNat / 4 % 8 := by
  have hword : (offset.extractLsb' 2 3).toNat = offset.toNat / 4 % 8 := offsetWord_toNat offset
  rw [zatCalc_data hslot hblock, ← offsetBlock_setWidth_eight]
  simp only [toNat_append_eq_add, BitVec.toNat_setWidth, offsetBlock_toNat, slotNibble_toNat hslot, hword,
    BitVec.toNat_ofNat]
  omega

end

/-! ## What the operation answers -/

@[simp] theorem outputs_atAddr (s : State) : s.outputs.atAddr = s.zat.map ZatOut.addr := rfl
@[simp] theorem outputs_atErr (s : State) : s.outputs.atErr = s.zat.map fun z => z.err.code := rfl

/-- A result without an error changes ZAT's sample and nothing else: no code is logged. -/
theorem exec_zat_of_err_eq_none {zone slot : Byte} {offset addr : Word16}
    (hcalc : zatCalc zone slot offset = { addr := addr, err := .none }) (s : State) :
    exec (.zat zone slot offset) s = .next { s with zat := some { addr := addr, err := .none } } := by
  rw [exec_zat, hcalc, raisedEntries_none, List.append_nil]

end Sys2Proof.Machine

namespace Sys2Proof.Proofs

open Sys2Proof.Machine

/-- Settles O33: the outputs are `zatCalc`'s, one lemma for each of its branches; `exec_zat` names all that the operation
writes. -/
theorem zatResult : Obligations.ZatResult := by
  intro zone slot offset
  refine ⟨zatCalc zone slot offset, ?data, ?slotRange, ?overflow, ?config, ?otherZone, fun s => ?frame⟩
  case data =>
    rintro rfl hslot hblock
    exact ⟨zatCalc_data_addr_toNat hslot hblock, by rw [zatCalc_data hslot hblock]⟩
  case slotRange =>
    rintro rfl hslot
    rw [zatCalc_data_of_slot_gt offset hslot]
    exact ⟨rfl, rfl⟩
  case overflow =>
    rintro rfl hslot hblock
    rw [zatCalc_data_of_block_gt hslot hblock]
    exact ⟨rfl, rfl⟩
  case config =>
    rintro rfl
    exact ⟨zatCalc_config_addr_toNat slot offset, by rw [zatCalc_config]⟩
  case otherZone =>
    intro hconfig hdata
    rw [zatCalc_of_other_zone hconfig hdata]
    exact ⟨rfl, rfl⟩
  case frame =>
    exact ⟨_, exec_zat zone slot offset s, by simp, by simp, rfl⟩

/-- Settles O34: in both zones the result is without an error, and its address is the OR read as a concatenation. -/
theorem zatBitFields : Obligations.ZatBitFields := by
  refine ⟨fun s slot offset hslot hoffset => ?data, fun s slot offset => ?config⟩
  case data =>
    have hcalc := zatCalc_data hslot (offset := offset) (by omega)
    exact ⟨_, exec_zat_of_err_eq_none hcalc s, rfl, rfl, rfl⟩
  case config =>
    exact ⟨_, exec_zat_of_err_eq_none (zatCalc_config slot offset) s, rfl, rfl, rfl⟩

end Sys2Proof.Proofs
end

section
/-! The reserved op code pulses (60_exceptions.md R157): an operation leaves its unit's pulse at 1 exactly if it is a
reserved op code, a reset leaves 0, and the op code alone tells whether a vector is reserved. -/

namespace Sys2Proof.Machine

/-! ## The pulse after an operation of the unit -/

@[simp] theorem fencFail_rsvd (f : FencRegs) (e : ErrCode) : (fencFail f e).rsvd = false := rfl
@[simp] theorem fencOne_rsvd (p : FencPhase) (b : Byte) : (fencOne p b).rsvd = false := rfl
@[simp] theorem fencTwo_rsvd (p : FencPhase) (b0 b1 : Byte) : (fencTwo p b0 b1).rsvd = false := rfl
@[simp] theorem fdecFail_rsvd (d : FdecRegs) (e : ErrCode) : (fdecFail d e).1.rsvd = false := rfl

theorem fencTgtRegs_rsvd (c : Byte) (f : FencRegs) : (fencTgtRegs c f).rsvd = false := by
  unfold fencTgtRegs
  split_ifs <;> simp

theorem fencOpenRegs_rsvd (f : FencRegs) : (fencOpenRegs f).rsvd = false := by
  unfold fencOpenRegs
  split_ifs <;> simp

theorem fencHexRegs_rsvd (b : Byte) (f : FencRegs) : (fencHexRegs b f).rsvd = false := by
  unfold fencHexRegs
  split_ifs <;> simp

theorem fencCloseRegs_rsvd (f : FencRegs) : (fencCloseRegs f).rsvd = false := by
  unfold fencCloseRegs
  split_ifs <;> simp

theorem fdecChrRegs_rsvd (c : Byte) (d : FdecRegs) : (fdecChrRegs c d).1.rsvd = false := by
  cases hd : d.phase with
  | scan =>
    rw [fdecChrRegs_of_scan c hd, fdecChrScan]
    split_ifs <;> simp
  | body =>
    rw [fdecChrRegs_of_body c hd, fdecChrBody]
    split_ifs <;> simp
  | done => rw [fdecChrRegs_of_ended c (.inl hd), fdecClear_rsvd]
  | error => rw [fdecChrRegs_of_ended c (.inr hd), fdecClear_rsvd]

theorem crcAfter_rsvd {i : Instr} (hunit : i.unit = .crc) (base : CrcBase) (c : CrcRegs) :
    (crcAfter i base c).rsvd = i.isReserved := by
  cases i with
  | crcNop | crcInit | crcUpd | crcRsvd3 => rfl
  | _ => cases hunit

theorem fencAfter_rsvd {i : Instr} (hunit : i.unit = .fenc) (f : FencRegs) : (fencAfter i f).rsvd = i.isReserved := by
  cases i with
  | fencTgt c => exact fencTgtRegs_rsvd c f
  | fencOpen => exact fencOpenRegs_rsvd f
  | fencHex b => exact fencHexRegs_rsvd b f
  | fencClose => exact fencCloseRegs_rsvd f
  | fencNop | fencAbort | fencRsvd6 | fencRsvd7 => rfl
  | _ => cases hunit

theorem fdecAfter_rsvd {i : Instr} (hunit : i.unit = .fdec) (d : FdecRegs) : (fdecAfter i d).1.rsvd = i.isReserved := by
  cases i with
  | fdecChr c => exact fdecChrRegs_rsvd c d
  | fdecNop | fdecStart | fdecRsvd3 => rfl
  | _ => cases hunit

/-! ## The pulse after a cycle -/

section
variable (l : CycleIn)

theorem crcCycle_rsvd_iff (base : CrcBase) (c : CrcRegs) :
    (crcCycle l base c).rsvd = true ↔ l.rst = false ∧ (decodeCrc l.crc).isReserved = true := by
  cases hrst : l.rst with
  | true => simp [crcCycle, hrst, CrcRegs.reset]
  | false => simp [crcCycle, hrst, crcAfter_rsvd (decodeCrc_unit l.crc)]

theorem fencCycle_rsvd_iff (f : FencRegs) :
    (fencCycle l f).rsvd = true ↔ l.rst = false ∧ (decodeFenc l.fenc).isReserved = true := by
  cases hrst : l.rst with
  | true => simp [fencCycle, hrst, FencRegs.reset]
  | false => simp [fencCycle, hrst, fencAfter_rsvd (decodeFenc_unit l.fenc)]

theorem fdecCycle_rsvd_iff (d : FdecRegs) :
    (fdecCycle l d).1.rsvd = true ↔ l.rst = false ∧ (decodeFdec l.fdec).isReserved = true := by
  cases hrst : l.rst with
  | true => simp [fdecCycle_of_rst d hrst, FdecRegs.reset]
  | false => simp [fdecCycle, hrst, fdecAfter_rsvd (decodeFdec_unit l.fdec)]

end

/-! ## Which vectors are reserved -/

theorem decodeCrc_isReserved_iff (v : BitVec 10) :
    (decodeCrc v).isReserved = true ↔ v.extractLsb' 8 2 = 0b11#2 := by
  unfold decodeCrc
  dsimp only
  split_ifs with hnop hinit hupd
  · simp [Instr.isReserved, hnop]
  · simp [Instr.isReserved, hinit]
  · simp [Instr.isReserved, hupd]
  · have hrsvd3 : v.extractLsb' 8 2 = 0b11#2 := by bv_omega
    simp [Instr.isReserved, hrsvd3]

theorem decodeFenc_isReserved_iff (v : BitVec 11) :
    (decodeFenc v).isReserved = true ↔ v.extractLsb' 8 3 = 0b110#3 ∨ v.extractLsb' 8 3 = 0b111#3 := by
  unfold decodeFenc
  dsimp only
  split_ifs with hnop htgt hopen hhex hclose habort hrsvd6
  · simp [Instr.isReserved, hnop]
  · simp [Instr.isReserved, htgt]
  · simp [Instr.isReserved, hopen]
  · simp [Instr.isReserved, hhex]
  · simp [Instr.isReserved, hclose]
  · simp [Instr.isReserved, habort]
  · simp [Instr.isReserved, hrsvd6]
  · have hrsvd7 : v.extractLsb' 8 3 = 0b111#3 := by bv_omega
    simp [Instr.isReserved, hrsvd7]

theorem decodeFdec_isReserved_iff (v : BitVec 10) :
    (decodeFdec v).isReserved = true ↔ v.extractLsb' 8 2 = 0b11#2 := by
  unfold decodeFdec
  dsimp only
  split_ifs with hnop hstart hchr
  · simp [Instr.isReserved, hnop]
  · simp [Instr.isReserved, hstart]
  · simp [Instr.isReserved, hchr]
  · have hrsvd3 : v.extractLsb' 8 2 = 0b11#2 := by bv_omega
    simp [Instr.isReserved, hrsvd3]

end Sys2Proof.Machine

namespace Sys2Proof.Proofs

open Sys2Proof.Machine

/-- Settles O45: after a cycle each pulse tells whether the unit's vector decoded to a reserved operation, which the op
code alone fixes; the whole next states of NOP and of the reserved op codes are those of O8, O16 and O23. -/
theorem reservedPulsesFollowReservedCodes : Obligations.ReservedPulsesFollowReservedCodes := by
  refine ⟨fun s l => ⟨_, feed_eq l s, ?crc, ?fenc, ?fdec⟩, fun s => ?reserved⟩
  case crc => exact (crcCycle_rsvd_iff l s.config.crcBase s.crc).trans (and_congr_right' (decodeCrc_isReserved_iff l.crc))
  case fenc => exact (fencCycle_rsvd_iff l s.fenc).trans (and_congr_right' (decodeFenc_isReserved_iff l.fenc))
  case fdec => exact (fdecCycle_rsvd_iff l s.fdec).trans (and_congr_right' (decodeFdec_isReserved_iff l.fdec))
  case reserved =>
    obtain ⟨hcrcNop, hcrcRsvd, -⟩ := crcNopInitReservedResults s
    obtain ⟨hfencNop, -, hfencRsvd6, hfencRsvd7⟩ := fencNopAbortReservedResults s
    obtain ⟨hfdecNop, hfdecRsvd, -⟩ := fdecNopStartReservedResults s
    exact ⟨_, _, _, hcrcNop, hfencNop, hfdecNop, hcrcRsvd, hfencRsvd6, hfencRsvd7, hfdecRsvd, rfl, rfl⟩

end Sys2Proof.Proofs
end

section
/-! A cycle with `rst = 1` (70_reset_and_hazards.md R175, R176): the sequential units' vectors are not looked at, and
ZAT's outputs do not look at `rst`. -/

namespace Sys2Proof.Machine

section
variable {l : CycleIn}

theorem crcCycle_of_rst (base : CrcBase) (c : CrcRegs) (hrst : l.rst = true) : crcCycle l base c = CrcRegs.reset :=
  if_pos hrst

theorem fencCycle_of_rst (f : FencRegs) (hrst : l.rst = true) : fencCycle l f = FencRegs.reset := if_pos hrst

end

/-- ZAT's outputs follow its inputs alone (43_address_translator.md R140). -/
theorem zatCycle_congr {l k : CycleIn} (hzat : l.zat = k.zat) : zatCycle l = zatCycle k := by
  rw [zatCycle, zatCycle, hzat]

end Sys2Proof.Machine

namespace Sys2Proof.Proofs

open Sys2Proof.Machine

/-- Settles O37: both cycles run by `feed_eq`; with `rst = 1` each unit's cycle is its reset, and the two lines, which
differ in `rst` alone, give ZAT the same outputs. -/
theorem resetCycleOverridesOperations : Obligations.ResetCycleOverridesOperations := by
  intro s l hrst
  have hzat : zatCycle l = zatCycle { l with rst := false } := zatCycle_congr rfl
  refine ⟨_, _, feed_eq l s, feed_eq _ s, ?crc, ?fenc, ?fdec, ?addr, ?err⟩
  case crc => exact crcCycle_of_rst s.config.crcBase s.crc hrst
  case fenc => exact fencCycle_of_rst s.fenc hrst
  case fdec => exact congrArg Prod.fst (fdecCycle_of_rst s.fdec hrst)
  case addr => simp only [outputs_atAddr, hzat]
  case err => simp only [outputs_atErr, hzat]

end Sys2Proof.Proofs
end

section
/-! Every operation survives encoding and decoding (30_encoding.md R57, R59, R61, R62, R68). -/

namespace Sys2Proof.Machine

/-- Operations with an operand by the field lemmas of their format, the others by evaluation of one word. -/
theorem decode_encode (i : Instr) : decode (encode i) = i := by
  cases i with
  | crcUpd b => exact decodeCrc_opLine_crcUpd b
  | fencTgt c => exact decodeFenc_opLine (i := .fencTgt c) rfl
  | fencHex b => exact decodeFenc_opLine (i := .fencHex b) rfl
  | fdecChr c => exact decodeFdec_opLine (i := .fdecChr c) rfl
  | zat zone slot offset => simp only [encode, decode, decodeZat, zatWord_zone, zatWord_slot, zatWord_offset]
  | _ => rfl

end Sys2Proof.Machine

namespace Sys2Proof.Proofs

/-- Settles O2: `decode_encode`. -/
theorem decodeOfEncodeIsTheOperation : Obligations.DecodeOfEncodeIsTheOperation := Machine.decode_encode

end Sys2Proof.Proofs
end

section
/-! The opcode table (30_encoding.md R65, R72): a port's rows share one mask, so a vector picks at most one of them, by
its masked value; on a command port that value is the op code, and every op code has a row. -/

namespace Sys2Proof

theorem OpcodeRow.matchesWord_iff (r : OpcodeRow) (w : PortWord) :
    r.matchesWord w = true ↔ r.port = w.unit ∧ w.toNat &&& r.mask = r.value := by
  simp [OpcodeRow.matchesWord]

theorem opcodeTable_row_unique {q r : OpcodeRow} {w : PortWord} (hq : q ∈ opcodeTable) (hr : r ∈ opcodeTable)
    (hqw : q.matchesWord w = true) (hrw : r.matchesWord w = true) : q = r := by
  have hrows : ∀ q ∈ opcodeTable, ∀ r ∈ opcodeTable, q.port = r.port →
      q.mask = r.mask ∧ (q.value = r.value → q = r) := by decide
  obtain ⟨hqport, hqvalue⟩ := (q.matchesWord_iff w).mp hqw
  obtain ⟨hrport, hrvalue⟩ := (r.matchesWord_iff w).mp hrw
  obtain ⟨hmask, hvalue⟩ := hrows q hq r hr (hqport.trans hrport.symm)
  exact hvalue (by rw [← hqvalue, ← hrvalue, hmask])

/-- The bits above the data field, masked in place, are the op field moved up. -/
theorem toNat_and_opMask {k : Nat} (v : BitVec (k + 8)) :
    v.toNat &&& (2 ^ k - 1) * 2 ^ 8 = (v.extractLsb' 8 k).toNat * 2 ^ 8 := by
  apply Nat.eq_of_testBit_eq
  intro i
  rw [Nat.testBit_and, Nat.testBit_mul_two_pow, Nat.testBit_mul_two_pow, Nat.testBit_two_pow_sub_one,
    BitVec.testBit_toNat, BitVec.testBit_toNat, BitVec.getLsbD_extractLsb']
  by_cases hi : 8 ≤ i
  · simp [hi, Bool.and_comm]
  · simp [hi]

theorem exists_row_crc (v : BitVec 10) :
    ∃ r ∈ opcodeTable, r.mnemonic = (decodeCrc v).mnemonic ∧ r.matchesWord (.crc v) = true := by
  have hmask : v.toNat &&& 0x300 = (v.extractLsb' 8 2).toNat * 2 ^ 8 := toNat_and_opMask v
  have hops : ∀ op : BitVec 2, op = 0 ∨ op = 1 ∨ op = 2 ∨ op = 3 := by decide
  obtain hop | hop | hop | hop := hops (v.extractLsb' 8 2) <;>
    simp [opcodeTable, OpcodeRow.matchesWord_iff, PortWord.unit, PortWord.toNat, hmask, decodeCrc, hop, Instr.mnemonic]

theorem exists_row_fenc (v : BitVec 11) :
    ∃ r ∈ opcodeTable, r.mnemonic = (decodeFenc v).mnemonic ∧ r.matchesWord (.fenc v) = true := by
  have hmask : v.toNat &&& 0x700 = (v.extractLsb' 8 3).toNat * 2 ^ 8 := toNat_and_opMask v
  have hops : ∀ op : BitVec 3, op = 0 ∨ op = 1 ∨ op = 2 ∨ op = 3 ∨ op = 4 ∨ op = 5 ∨ op = 6 ∨ op = 7 := by decide
  obtain hop | hop | hop | hop | hop | hop | hop | hop := hops (v.extractLsb' 8 3) <;>
    simp [opcodeTable, OpcodeRow.matchesWord_iff, PortWord.unit, PortWord.toNat, hmask, decodeFenc, hop, Instr.mnemonic]

theorem exists_row_fdec (v : BitVec 10) :
    ∃ r ∈ opcodeTable, r.mnemonic = (decodeFdec v).mnemonic ∧ r.matchesWord (.fdec v) = true := by
  have hmask : v.toNat &&& 0x300 = (v.extractLsb' 8 2).toNat * 2 ^ 8 := toNat_and_opMask v
  have hops : ∀ op : BitVec 2, op = 0 ∨ op = 1 ∨ op = 2 ∨ op = 3 := by decide
  obtain hop | hop | hop | hop := hops (v.extractLsb' 8 2) <;>
    simp [opcodeTable, OpcodeRow.matchesWord_iff, PortWord.unit, PortWord.toNat, hmask, decodeFdec, hop, Instr.mnemonic]

theorem exists_row (w : PortWord) :
    ∃ r ∈ opcodeTable, r.mnemonic = (decode w).mnemonic ∧ r.matchesWord w = true := by
  cases w with
  | crc v => exact exists_row_crc v
  | fenc v => exact exists_row_fenc v
  | fdec v => exact exists_row_fdec v
  | zat v => exact ⟨⟨"zat", .zat, 0, 0⟩, by decide, rfl, by simp [OpcodeRow.matchesWord_iff, PortWord.unit]⟩

end Sys2Proof

namespace Sys2Proof.Proofs

/-- Settles O3: `exists_row` and `opcodeTable_row_unique`. -/
theorem everyVectorHasExactlyOneRow : Obligations.EveryVectorHasExactlyOneRow := by
  intro w
  obtain ⟨r, hmem, hname, hmatch⟩ := exists_row w
  exact ⟨Machine.decode_unit w, r, hmem, hname, hmatch, fun q hq hqw => opcodeTable_row_unique hq hmem hqw hmatch⟩

end Sys2Proof.Proofs
end

section
/-! The error codes (60_exceptions.md R155): a code is read back from its number, and each unit's codes. -/

namespace Sys2Proof.Machine

/-- The code of a number up to 7; the reserved numbers have none, and the value given to them plays no part. -/
def ErrCode.ofCode (n : BitVec 4) : ErrCode :=
  match n.toNat with
  | 1 => .zone
  | 2 => .slot
  | 3 => .addrOvf
  | 4 => .parse
  | 5 => .hex
  | 6 => .encSeq
  | 7 => .encChar
  | _ => .none

theorem ErrCode.ofCode_code (e : ErrCode) : ErrCode.ofCode e.code = e := by cases e <;> rfl

theorem ErrCode.code_injective : Function.Injective ErrCode.code :=
  Function.LeftInverse.injective ErrCode.ofCode_code

theorem ErrCode.unit_eq_zat_iff (e : ErrCode) : e.unit = some .zat ↔ e = .zone ∨ e = .slot ∨ e = .addrOvf := by
  cases e <;> simp [ErrCode.unit]

theorem ErrCode.unit_eq_fdec_iff (e : ErrCode) : e.unit = some .fdec ↔ e = .parse ∨ e = .hex := by
  cases e <;> simp [ErrCode.unit]

theorem ErrCode.unit_eq_fenc_iff (e : ErrCode) : e.unit = some .fenc ↔ e = .encSeq ∨ e = .encChar := by
  cases e <;> simp [ErrCode.unit]

end Sys2Proof.Machine

namespace Sys2Proof.Proofs

open Sys2Proof.Machine

/-- Settles O7: the numbers by evaluation, that they differ by `ErrCode.ofCode_code`, the units code by code. -/
theorem errorCodesHaveTheirNumbers : Obligations.ErrorCodesHaveTheirNumbers :=
  ⟨rfl, rfl, rfl, rfl, rfl, rfl, rfl, rfl, fun _ _ h => ErrCode.code_injective h,
    fun e => ⟨e.unit_eq_zat_iff, e.unit_eq_fdec_iff, e.unit_eq_fenc_iff⟩⟩

/-- Settles O5: each word is decoded by evaluation. -/
theorem specExampleWordsDecode : Obligations.SpecExampleWordsDecode := by
  unfold Obligations.SpecExampleWordsDecode
  decide

end Sys2Proof.Proofs
end

section
/-! A line's operations on the ports (30_encoding.md R67, R68): each drives the port of its unit only, so operations of
different units can be driven in any order and none is lost. -/

namespace Sys2Proof.Machine

theorem encode_unit (i : Instr) : (encode i).unit = i.unit := by cases i <;> rfl

theorem asmWord_unit (o : AsmOp) : (asmWord o).unit = o.unit := by
  cases o with
  | op i => exact encode_unit i
  | raw w => rfl

section
variable (w : PortWord) (l : CycleIn)

@[simp] theorem drive_rst : (drive w l).rst = l.rst := by cases w <;> rfl

theorem drive_drive : drive w (drive w l) = drive w l := by cases w <;> rfl

variable {w}

theorem drive_crc_of_ne (h : w.unit ≠ .crc) : (drive w l).crc = l.crc := by
  cases w with
  | crc v => exact absurd rfl h
  | _ => rfl

theorem drive_fenc_of_ne (h : w.unit ≠ .fenc) : (drive w l).fenc = l.fenc := by
  cases w with
  | fenc v => exact absurd rfl h
  | _ => rfl

theorem drive_fdec_of_ne (h : w.unit ≠ .fdec) : (drive w l).fdec = l.fdec := by
  cases w with
  | fdec v => exact absurd rfl h
  | _ => rfl

theorem drive_zat_of_ne (h : w.unit ≠ .zat) : (drive w l).zat = l.zat := by
  cases w with
  | zat v => exact absurd rfl h
  | _ => rfl

theorem drive_comm {x : PortWord} (h : w.unit ≠ x.unit) : drive w (drive x l) = drive x (drive w l) := by
  cases w with
  | crc v => cases x with
    | crc _ => exact absurd rfl h
    | _ => rfl
  | fenc v => cases x with
    | fenc _ => exact absurd rfl h
    | _ => rfl
  | fdec v => cases x with
    | fdec _ => exact absurd rfl h
    | _ => rfl
  | zat v => cases x with
    | zat _ => exact absurd rfl h
    | _ => rfl

end

/-! ## All operations of a line -/

/-- A line with the operations' vectors put on it one after another. -/
def driveAll (ops : List AsmOp) (l : CycleIn) : CycleIn := ops.foldl (fun acc o => drive (asmWord o) acc) l

theorem driveAll_cons (o : AsmOp) (ops : List AsmOp) (l : CycleIn) :
    driveAll (o :: ops) l = driveAll ops (drive (asmWord o) l) := rfl

theorem lineInputs_ops (ops : List AsmOp) : lineInputs (.ops ops) = driveAll ops idleLine := rfl

/-- What each single operation keeps, all of them keep. -/
theorem driveAll_keeps {α : Type} (field : CycleIn → α) {ops : List AsmOp}
    (h : ∀ o ∈ ops, ∀ l, field (drive (asmWord o) l) = field l) (l : CycleIn) : field (driveAll ops l) = field l := by
  induction ops generalizing l with
  | nil => rfl
  | cons o ops ih =>
    obtain ⟨ho, hops⟩ := List.forall_mem_cons.mp h
    rw [driveAll_cons, ih hops, ho]

theorem driveAll_drive_comm {w : PortWord} {ops : List AsmOp} (h : ∀ o ∈ ops, o.unit ≠ w.unit) (l : CycleIn) :
    drive w (driveAll ops l) = driveAll ops (drive w l) := by
  induction ops generalizing l with
  | nil => rfl
  | cons o ops ih =>
    obtain ⟨ho, hops⟩ := List.forall_mem_cons.mp h
    have hne : w.unit ≠ (asmWord o).unit := fun heq => ho ((asmWord_unit o).symm.trans heq.symm)
    rw [driveAll_cons, driveAll_cons, ih hops, drive_comm l hne]

theorem distinctUnits_cons (o : AsmOp) (ops : List AsmOp) :
    distinctUnits (o :: ops) = true ↔ (∀ p ∈ ops, p.unit ≠ o.unit) ∧ distinctUnits ops = true := by
  simp [distinctUnits]

/-- Each operation's vector is on its port after all are: driving it again changes nothing. -/
theorem drive_driveAll_of_mem {ops : List AsmOp} (hdistinct : distinctUnits ops = true) {o : AsmOp} (ho : o ∈ ops)
    (l : CycleIn) : drive (asmWord o) (driveAll ops l) = driveAll ops l := by
  induction ops generalizing l with
  | nil => cases ho
  | cons p ops ih =>
    obtain ⟨hother, hdistinct⟩ := (distinctUnits_cons p ops).mp hdistinct
    rw [driveAll_cons]
    obtain rfl | ho := List.mem_cons.mp ho
    · rw [driveAll_drive_comm (by rwa [asmWord_unit]), drive_drive]
    · exact ih hdistinct ho _

end Sys2Proof.Machine

namespace Sys2Proof.Proofs

open Sys2Proof.Machine

/-- Settles O6: the vectors by `drive_driveAll_of_mem`, the idle ports by `driveAll_keeps`. -/
theorem wellFormedLinePresentsItsOperations : Obligations.WellFormedLinePresentsItsOperations := by
  intro ops hwf
  obtain ⟨-, hdistinct⟩ := Bool.and_eq_true_iff.mp hwf
  rw [lineInputs_ops]
  refine ⟨driveAll_keeps CycleIn.rst (fun o _ l => drive_rst _ l) _, fun o ho => drive_driveAll_of_mem hdistinct ho _,
    fun h => driveAll_keeps CycleIn.crc (fun o ho l => drive_crc_of_ne l ?_) _,
    fun h => driveAll_keeps CycleIn.fenc (fun o ho l => drive_fenc_of_ne l ?_) _,
    fun h => driveAll_keeps CycleIn.fdec (fun o ho l => drive_fdec_of_ne l ?_) _,
    fun h => driveAll_keeps CycleIn.zat (fun o ho l => drive_zat_of_ne l ?_) _⟩
  all_goals rw [asmWord_unit]; exact h o ho

end Sys2Proof.Proofs
end

section
/-! The bytes a run feeds the CRC unit (40_crc.md section 3): of the operations other than INIT only UPD moves the
accumulator. -/

namespace Sys2Proof.Machine

theorem crcUpdBytes_cons (l : CycleIn) (ls : List CycleIn) :
    crcUpdBytes (l :: ls) = crcUpdBytes [l] ++ crcUpdBytes ls := by
  simp [crcUpdBytes]

/-- One cycle folds CRC.UPD over the bytes of its line: the byte of UPD, or none. -/
theorem crcCycle_acc_of_not_init {l : CycleIn} (hrst : l.rst = false) (hinit : decode (.crc l.crc) ≠ .crcInit)
    (base : CrcBase) (c : CrcRegs) :
    (crcCycle l base c).acc = (crcUpdBytes [l]).foldl (crcUpdAt base) c.acc := by
  have hcycle : crcCycle l base c = crcAfter (decode (.crc l.crc)) base c := by simp [crcCycle, hrst, decode]
  have hunit : (decode (.crc l.crc)).unit = .crc := decodeCrc_unit l.crc
  rw [hcycle]
  cases hi : decode (.crc l.crc) with
  | crcNop | crcUpd | crcRsvd3 => simp [crcUpdBytes, hi, crcAfter]
  | crcInit => exact absurd hi hinit
  | _ =>
    rw [hi] at hunit
    cases hunit

theorem foldl_crcCycle_acc {ls : List CycleIn} (h : ∀ l ∈ ls, l.rst = false ∧ decode (.crc l.crc) ≠ .crcInit)
    (base : CrcBase) (c : CrcRegs) :
    (ls.foldl (fun c l => crcCycle l base c) c).acc = (crcUpdBytes ls).foldl (crcUpdAt base) c.acc := by
  induction ls generalizing c with
  | nil => rfl
  | cons l ls ih =>
    obtain ⟨⟨hrst, hinit⟩, hls⟩ := List.forall_mem_cons.mp h
    rw [List.foldl_cons, ih hls, crcCycle_acc_of_not_init hrst hinit, crcUpdBytes_cons l ls, List.foldl_append]

end Sys2Proof.Machine

namespace Sys2Proof.Proofs

open Sys2Proof.Machine

/-- Settles O13: the run folds `crcCycle` over its lines, which on the accumulator is CRC.UPD over their bytes. -/
theorem crcDependsOnlyOnItsBytes : Obligations.CrcDependsOnlyOnItsBytes := by
  intro s ls h
  obtain ⟨t, hrun, -, hcrc⟩ := feedAll_crc ls s
  exact ⟨t, hrun, by rw [hcrc, foldl_crcCycle_acc h]⟩

end Sys2Proof.Proofs
end

section
/-! The residue (40_crc.md section 5): a byte equal to the accumulator's low byte cancels it, and eight turns on a word
with eight low zeros only shift; the second byte then cancels what the first left. -/

namespace Sys2Proof.Machine

theorem arcBit_iterate_of_low_zeros {x : Word16} {n : Nat} (hlow : ∀ i < n, x.getLsbD i = false) :
    arcBit^[n] x = x >>> n := by
  induction n with
  | zero => simp
  | succ n ih =>
    have hbit : (x >>> n).getLsbD 0 = false := (BitVec.getLsbD_ushiftRight x n 0).trans (hlow n n.lt_succ_self)
    rw [Function.iterate_succ_apply', ih fun i hi => hlow i (Nat.lt_succ_of_lt hi), arcBit, hbit,
      BitVec.shiftRight_add]
    rfl

theorem crcUpdArc_wireFirst (acc : Word16) : crcUpdArc acc (wireFirst acc) = acc >>> 8 := by
  have hlow : ∀ i < 8, (acc ^^^ (wireFirst acc).setWidth 16).getLsbD i = false := by
    intro i hi
    have hi16 : i < 16 := by omega
    simp [wireFirst_getLsbD acc hi, hi16]
  rw [crcUpdArc, repeat8_eq_iterate, arcBit_iterate_of_low_zeros hlow]
  apply BitVec.eq_of_getLsbD_eq
  intro i _
  simp

theorem crcUpdArc_wireSecond (acc : Word16) : crcUpdArc (acc >>> 8) (wireSecond acc) = 0 := by
  have hsame : (wireSecond acc).setWidth 16 = acc >>> 8 := by
    apply BitVec.eq_of_getLsbD_eq
    intro i hi
    by_cases hbyte : i < 8
    · simp [wireSecond, hi, hbyte]
    · have hpast : acc.getLsbD (8 + i) = false := BitVec.getLsbD_of_ge acc (8 + i) (by omega)
      simp [wireSecond, hbyte, hpast]
  rw [crcUpdArc, hsame, BitVec.xor_self]
  decide

theorem accOf_append_wire (d : List Byte) :
    accOf .arcReflected (d ++ [wireFirst (accOf .arcReflected d), wireSecond (accOf .arcReflected d)]) = 0x0000 := by
  rw [accOf, List.foldl_append, ← accOf]
  exact (congrArg (crcUpdArc · _) (crcUpdArc_wireFirst _)).trans (crcUpdArc_wireSecond _)

end Sys2Proof.Machine

namespace Sys2Proof.Proofs

open Sys2Proof.Machine

/-- Settles O15: both runs leave ACC of their bytes, and `accOf_append_wire`. -/
theorem crcResidueIsZero : Obligations.CrcResidueIsZero := by
  intro s d hbase
  obtain ⟨t, hrun, hacc⟩ := feedAll_crcBytesLines d s
  obtain ⟨u, hrun', hacc'⟩ := feedAll_crcBytesLines (d ++ [wireFirst t.crc.acc, wireSecond t.crc.acc]) s
  refine ⟨t, u, hrun, hrun', ?_⟩
  rw [hbase] at hacc hacc'
  rw [hacc', hacc, accOf_append_wire]

end Sys2Proof.Proofs
end

section
/-! The frame grammar (41_frame_encoder.md section 1). One direction: whole frames run through without an error. The
other: an operation that reports no error, put in front of operations that complete the frames from the phase it leaves,
completes them from the phase it starts in; so a run without errors is read from its end. -/

namespace Sys2Proof.Machine

/-- The operations of frames one after another, each a target and a payload. -/
def framesOps (frames : List (List Byte × List Byte)) : List Instr := frames.flatMap fun f => frameOps f.1 f.2

theorem framesOps_cons (t d : List Byte) (frames : List (List Byte × List Byte)) :
    framesOps ((t, d) :: frames) =
      t.map .fencTgt ++ .fencOpen :: (d.map .fencHex ++ .fencClose :: framesOps frames) := by
  simp [framesOps, frameOps]

/-! ## Whole frames run through -/

theorem EmitsBytes.frame_append {t : List Byte} {ops : List Instr} {out : List Byte} (d : List Byte)
    (ht : legalTarget t = true) (h : EmitsBytes ops .idle .idle out) :
    ∃ out', EmitsBytes (t.map .fencTgt ++ .fencOpen :: (d.map .fencHex ++ .fencClose :: ops)) .idle .idle out' := by
  have htail := (h.close_cons.hexes_append d).open_cons
  cases t with
  | nil => cases ht
  | cons c t =>
    obtain ⟨hc, ht⟩ : legalTargetChar c = true ∧ ∀ c ∈ t, legalTargetChar c = true := by
      simpa [legalTarget] using ht
    exact ⟨_, (htail.tgts_append ht).tgt_cons (by decide) hc⟩

theorem emitsBytes_framesOps {frames : List (List Byte × List Byte)} (h : ∀ f ∈ frames, legalTarget f.1 = true) :
    ∃ out, EmitsBytes (framesOps frames) .idle .idle out := by
  induction frames with
  | nil => exact ⟨[], emitsBytes_nil .idle⟩
  | cons f frames ih =>
    obtain ⟨t, d⟩ := f
    obtain ⟨ht, hframes⟩ := List.forall_mem_cons.mp h
    obtain ⟨out, hrest⟩ := ih hframes
    rw [framesOps_cons]
    exact hrest.frame_append d ht

/-! ## A run without errors is made of frames -/

/-- Operations that, from a phase, end the frame FENC is in and go on with whole frames. -/
def CompletesFrames (p : FencPhase) (ops : List Instr) : Prop :=
  ∃ frames : List (List Byte × List Byte), (∀ f ∈ frames, legalTarget f.1 = true) ∧
    match p with
    | .idle => ops = framesOps frames
    | .target => ∃ t d : List Byte, (∀ c ∈ t, legalTargetChar c = true) ∧
        ops = t.map .fencTgt ++ .fencOpen :: (d.map .fencHex ++ .fencClose :: framesOps frames)
    | .body => ∃ d : List Byte, ops = d.map .fencHex ++ .fencClose :: framesOps frames

section
variable {ops : List Instr}

theorem CompletesFrames.tgt_cons {c : Byte} {p : FencPhase} (hp : p ≠ .body) (hc : legalTargetChar c = true)
    (h : CompletesFrames .target ops) : CompletesFrames p (.fencTgt c :: ops) := by
  obtain ⟨frames, hlegal, t, d, ht, rfl⟩ := h
  have hct : ∀ b ∈ c :: t, legalTargetChar b = true := List.forall_mem_cons.mpr ⟨hc, ht⟩
  cases p with
  | idle =>
    refine ⟨(c :: t, d) :: frames, List.forall_mem_cons.mpr ⟨?_, hlegal⟩, ?_⟩
    · simpa [legalTarget] using hct
    · rw [framesOps_cons]
      rfl
  | target => exact ⟨frames, hlegal, c :: t, d, hct, rfl⟩
  | body => exact absurd rfl hp

theorem CompletesFrames.open_cons (h : CompletesFrames .body ops) : CompletesFrames .target (.fencOpen :: ops) := by
  obtain ⟨frames, hlegal, d, rfl⟩ := h
  exact ⟨frames, hlegal, [], d, by simp, rfl⟩

theorem CompletesFrames.hex_cons (b : Byte) (h : CompletesFrames .body ops) :
    CompletesFrames .body (.fencHex b :: ops) := by
  obtain ⟨frames, hlegal, d, rfl⟩ := h
  exact ⟨frames, hlegal, b :: d, rfl⟩

theorem CompletesFrames.close_cons (h : CompletesFrames .idle ops) : CompletesFrames .body (.fencClose :: ops) := by
  obtain ⟨frames, hlegal, rfl⟩ := h
  exact ⟨frames, hlegal, [], rfl⟩

/-- The four operations of the frame grammar. -/
def IsFrameOp (i : Instr) : Prop := (∃ c, i = .fencTgt c) ∨ i = .fencOpen ∨ (∃ b, i = .fencHex b) ∨ i = .fencClose

theorem IsFrameOp.unit_eq {i : Instr} (hi : IsFrameOp i) : i.unit = .fenc := by
  obtain ⟨c, rfl⟩ | rfl | ⟨b, rfl⟩ | rfl := hi <;> rfl

theorem CompletesFrames.cons_of_err_none {i : Instr} {f : FencRegs} (hi : IsFrameOp i)
    (hok : (fencAfter i f).err = .none) (h : CompletesFrames (fencAfter i f).phase ops) :
    CompletesFrames f.phase (i :: ops) := by
  obtain ⟨c, rfl⟩ | rfl | ⟨b, rfl⟩ | rfl := hi <;> simp only [fencAfter] at hok h
  · by_cases hp : f.phase = .body
    · simp [fencTgtRegs_of_body c hp] at hok
    · cases hc : legalTargetChar c with
      | false => simp [fencTgtRegs_of_illegal hp hc] at hok
      | true =>
        rw [fencTgtRegs_of_legal hp hc] at h
        exact h.tgt_cons hp hc
  · by_cases hp : f.phase = .target
    · rw [fencOpenRegs_of_target hp] at h
      rw [hp]
      exact h.open_cons
    · simp [fencOpenRegs_of_ne_target hp] at hok
  · by_cases hp : f.phase = .body
    · rw [fencHexRegs_of_body b hp] at h
      rw [hp]
      exact h.hex_cons b
    · simp [fencHexRegs_of_ne_body b hp] at hok
  · by_cases hp : f.phase = .body
    · rw [fencCloseRegs_of_body hp] at h
      rw [hp]
      exact h.close_cons
    · simp [fencCloseRegs_of_ne_body hp] at hok

/-- A run of frame operations that reports no error and ends in IDLE completes the frames from its first phase. -/
theorem completesFrames_of_fencClean (s : State) (hops : ∀ i ∈ ops, IsFrameOp i) :
    ∃ u, feedAll (programOf (ops.map opLine)) s = .next u ∧
      (fencClean (programOf (ops.map opLine)) s = true → u.fenc.phase = .idle → CompletesFrames s.fenc.phase ops) := by
  induction ops generalizing s with
  | nil =>
    refine ⟨s, rfl, fun _ hidle => ?_⟩
    rw [hidle]
    exact ⟨[], by simp, rfl⟩
  | cons i ops ih =>
    obtain ⟨hi, hops⟩ := List.forall_mem_cons.mp hops
    obtain ⟨t, hfeed, hfenc⟩ := feed_opLine_fenc hi.unit_eq s
    obtain ⟨u, hrun, hrest⟩ := ih t hops
    rw [programOf_map_opLine_cons]
    refine ⟨u, by rw [feedAll_cons_of_feed _ hfeed, hrun], fun hclean hidle => ?_⟩
    rw [fencClean_cons _ hfeed, Bool.and_eq_true, beq_iff_eq] at hclean
    obtain ⟨hok, hclean⟩ := hclean
    exact .cons_of_err_none hi (hfenc ▸ hok) (hfenc ▸ hrest hclean hidle)

end

end Sys2Proof.Machine

namespace Sys2Proof.Proofs

open Sys2Proof.Machine

/-- Settles O22: `completesFrames_of_fencClean` from IDLE, and `emitsBytes_framesOps`. -/
theorem errorFreeEncoderRunsAreFrames : Obligations.ErrorFreeEncoderRunsAreFrames := by
  intro s ops hidle hops
  have hframes : ∀ frames : List (List Byte × List Byte), (frames.flatMap fun f =>
      f.1.map Instr.fencTgt ++ [Instr.fencOpen] ++ f.2.map Instr.fencHex ++ [Instr.fencClose]) = framesOps frames := by
    simp [framesOps, frameOps]
  simp only [hframes]
  obtain ⟨u, hrun, hcomplete⟩ := completesFrames_of_fencClean s hops
  refine ⟨u, hrun, fun ⟨hclean, hend⟩ => ?_, fun ⟨frames, hlegal, heq⟩ => ?_⟩
  · have hall := hcomplete hclean hend
    rw [hidle] at hall
    exact hall
  · subst heq
    obtain ⟨out, hemits⟩ := emitsBytes_framesOps hlegal
    obtain ⟨u', hrun', hend, hclean, -⟩ := hemits s hidle
    obtain rfl : u' = u := Host.Outcome.next.inj (hrun'.symm.trans hrun)
    exact ⟨hclean, hend⟩

end Sys2Proof.Proofs
end

section
/-! What the text before and after a reply does to its outcome (42_frame_decoder.md sections 2 and 3). -/

namespace Sys2Proof.Machine

/-! ## After the outcome -/

/-- An outcome other than `incomplete` is held in DONE or ERROR, where further characters do nothing. -/
theorem decFrom_append_of_complete {d : FdecRegs} {text strobed : List Byte} (more : List Byte)
    (hdone : decFrom text d strobed ≠ .incomplete) : decFrom (text ++ more) d strobed = decFrom text d strobed := by
  induction text generalizing d strobed with
  | nil =>
    cases hphase : d.phase with
    | scan | body => simp [decOutcome, hphase] at hdone
    | done => rw [List.nil_append, decFrom_of_done _ _ hphase, decFrom_of_done _ _ hphase]
    | error => rw [List.nil_append, decFrom_of_error _ _ hphase, decFrom_of_error _ _ hphase]
  | cons c cs ih => exact ih hdone

/-! ## Noise before the first digit -/

/-- FDEC in SCAN on a reply of which it has read nothing but a history. -/
def fdecScanning (count : Fin 3) (prev2 prev1 : Byte) : FdecRegs :=
  { fdecStartRegs with nhist := count, prev2 := prev2, prev1 := prev1 }

section
variable {count count' : Fin 3} {prev2 prev1 prev2' prev1' : Byte}

theorem decFrom_scanning_lf (cs : List Byte) :
    decFrom (chLF :: cs) (fdecScanning count prev2 prev1) [] = .err .parse :=
  decFrom_cons_of_fail cs [] ((fdecChrRegs_of_scan chLF rfl).trans (fdecChrScan_lf _))

/-- A character that opens no body enters the history. -/
theorem decFrom_scanning_cons {c : Byte} (cs : List Byte) (hlf : c ≠ chLF)
    (hopen : ¬(c = chLParen ∧ fdecHistHex (fdecScanning count prev2 prev1) = true)) :
    decFrom (c :: cs) (fdecScanning count prev2 prev1) [] =
      decFrom cs (fdecScanning (histCount count) prev1 c) [] :=
  decFrom_cons cs [] ((fdecChrRegs_of_scan c rfl).trans (fdecChrScan_shift hlf hopen))

/-- Two histories neither of which can open a body at the next character give one outcome on a text if the histories
one character later do. -/
theorem decFrom_scanning_congr (h : fdecHistHex (fdecScanning count prev2 prev1) = false)
    (h' : fdecHistHex (fdecScanning count' prev2' prev1') = false)
    (hnext : ∀ c cs, decFrom cs (fdecScanning (histCount count) prev1 c) [] =
      decFrom cs (fdecScanning (histCount count') prev1' c) []) (text : List Byte) :
    decFrom text (fdecScanning count prev2 prev1) [] = decFrom text (fdecScanning count' prev2' prev1') [] := by
  cases text with
  | nil => rfl
  | cons c cs =>
    by_cases hlf : c = chLF
    · rw [hlf, decFrom_scanning_lf, decFrom_scanning_lf]
    · rw [decFrom_scanning_cons cs hlf (by simp [h]), decFrom_scanning_cons cs hlf (by simp [h']), hnext]

/-- One noise character after START: two characters later it has left the history, and until then it is no digit that
could open a body. -/
theorem decFrom_start_noise {c : Byte} (hhex : ishex c = false) (hopen : c ≠ chLParen) (hlf : c ≠ chLF)
    (text : List Byte) : decFrom (c :: text) fdecStartRegs [] = decFrom text fdecStartRegs [] := by
  have hstart : fdecStartRegs = fdecScanning 0 0x00 0x00 := rfl
  rw [hstart, decFrom_scanning_cons text hlf fun h => hopen h.1]
  refine decFrom_scanning_congr rfl rfl (fun b bs => ?_) text
  have hnoDigit : fdecHistHex (fdecScanning 2 c b) = false := by simp [fdecHistHex, fdecScanning, hhex]
  exact decFrom_scanning_congr (count' := 1) (prev2' := 0x00) hnoDigit rfl (fun _ _ => rfl) bs

end

theorem decFrom_start_noise_append {noise : List Byte}
    (hnoise : ∀ c ∈ noise, ishex c = false ∧ c ≠ 0x28 ∧ c ≠ 0x0A) (text : List Byte) :
    decFrom (noise ++ text) fdecStartRegs [] = decFrom text fdecStartRegs [] := by
  induction noise with
  | nil => rfl
  | cons c cs ih =>
    obtain ⟨⟨hhex, hopen, hlf⟩, hcs⟩ := List.forall_mem_cons.mp hnoise
    rw [List.cons_append, decFrom_start_noise hhex hopen hlf, ih hcs]

end Sys2Proof.Machine

namespace Sys2Proof.Proofs

open Sys2Proof.Machine

/-- Settles O30: `decFrom_start_noise_append`, from the registers START leaves. -/
theorem leadingNoiseIsIgnored : Obligations.LeadingNoiseIsIgnored := by
  intro s noise text hnoise
  rw [decText_eq_decFrom, decText_eq_decFrom, decFrom_start_noise_append hnoise]

/-- Settles O31: `decFrom_append_of_complete`, from the registers START leaves. -/
theorem outcomeIsFinal : Obligations.OutcomeIsFinal := by
  intro s text more o houtcome hcomplete
  rw [decText_eq_decFrom] at houtcome
  obtain rfl := Option.some.inj houtcome
  rw [decText_eq_decFrom, decFrom_append_of_complete more hcomplete]

/-- Settles O32: both flags are conjunctions of tests on the phase and the status. -/
theorem fdecFlagsFollowPhaseAndStatus : Obligations.FdecFlagsFollowPhaseAndStatus := by
  intro s
  simp [State.outputs, fdecDone, fdecStatusErr]

end Sys2Proof.Proofs
end

section
/-! A zone-2 address as a number in mixed radix (43_address_translator.md R143): block, slot and word are read back from
it, and block and word are the offset's word index. -/

namespace Sys2Proof.Machine

theorem zatCalc_data_addr_eq_iff {k k' : Byte} {o o' : Word16} (hk : k.toNat ≤ 15) (hk' : k'.toNat ≤ 15)
    (ho : o.toNat < 8192) (ho' : o'.toNat < 8192) :
    (zatCalc 2 k o).addr = (zatCalc 2 k' o').addr ↔ k = k' ∧ o.toNat / 4 = o'.toNat / 4 := by
  rw [← BitVec.toNat_inj, ← BitVec.toNat_inj, zatCalc_data_addr_toNat hk (by omega),
    zatCalc_data_addr_toNat hk' (by omega)]
  omega

end Sys2Proof.Machine

namespace Sys2Proof.Proofs

open Sys2Proof.Machine

/-- Settles O35: the sampled addresses are those of `zatCalc_data_addr_eq_iff`. -/
theorem zatAddressNamesOneWord : Obligations.ZatAddressNamesOneWord := by
  intro s k k' o o' hk hk' ho ho'
  refine ⟨_, _, exec_zat 2 k o s, exec_zat 2 k' o' s, ?_⟩
  rw [outputs_atAddr, outputs_atAddr]
  exact Option.some_inj.trans (zatCalc_data_addr_eq_iff hk hk' ho ho')

end Sys2Proof.Proofs
end

section
/-! What one cycle raises (60_exceptions.md section 4). FENC's code is the register it leaves; FDEC's is raised where the
operation enters ERROR (42_frame_decoder.md R118), and is the code it leaves there; ZAT's stands in its outputs. -/

namespace Sys2Proof.Machine

/-! ## FDEC raises a code exactly where it enters ERROR -/

/-- What an operation or a cycle makes of the registers `d`: it raises nothing and does not enter ERROR, or it fails from
outside ERROR with one of FDEC's codes. -/
def QuietOrFails (d : FdecRegs) (r : FdecRegs × ErrCode) : Prop :=
  r.2 = .none ∧ (r.1.phase = .error → d.phase = .error) ∨
    d.phase ≠ .error ∧ (r = fdecFail d .parse ∨ r = fdecFail d .hex)

theorem quietOrFails_fdecChrRegs (c : Byte) (d : FdecRegs) : QuietOrFails d (fdecChrRegs c d) := by
  unfold QuietOrFails
  cases hd : d.phase with
  | scan =>
    rw [fdecChrRegs_of_scan c hd, fdecChrScan]
    split_ifs <;> simp [hd]
  | body =>
    rw [fdecChrRegs_of_body c hd, fdecChrBody]
    split_ifs <;> simp [hd]
  | done => simp [fdecChrRegs_of_ended c (.inl hd), hd]
  | error => simp [fdecChrRegs_of_ended c (.inr hd)]

theorem quietOrFails_fdecAfter (i : Instr) (d : FdecRegs) : QuietOrFails d (fdecAfter i d) := by
  cases i with
  | fdecChr c => exact quietOrFails_fdecChrRegs c d
  | fdecStart => exact .inl ⟨rfl, fun herror => by cases herror⟩
  | _ => exact .inl ⟨rfl, id⟩

theorem quietOrFails_fdecCycle (l : CycleIn) (d : FdecRegs) : QuietOrFails d (fdecCycle l d) := by
  cases hrst : l.rst with
  | true =>
    rw [fdecCycle_of_rst d hrst]
    exact .inl ⟨rfl, fun herror => by cases herror⟩
  | false =>
    rw [fdecCycle_of_not_rst d hrst]
    exact quietOrFails_fdecAfter _ d

section
variable {d : FdecRegs} {r : FdecRegs × ErrCode}

theorem QuietOrFails.raises_iff (h : QuietOrFails d r) : r.2 ≠ .none ↔ d.phase ≠ .error ∧ r.1.phase = .error := by
  obtain ⟨hquiet, hphase⟩ | ⟨hphase, rfl | rfl⟩ := h
  · simpa [hquiet] using mt hphase
  · simp [hphase, fdecFail]
  · simp [hphase, fdecFail]

theorem QuietOrFails.raised_code (h : QuietOrFails d r) (hne : r.2 ≠ .none) :
    r.2 = r.1.err ∧ r.2.unit = some .fdec := by
  obtain ⟨hquiet, -⟩ | ⟨-, rfl | rfl⟩ := h
  · exact absurd hquiet hne
  · exact ⟨rfl, rfl⟩
  · exact ⟨rfl, rfl⟩

end

/-! ## The entries of a cycle -/

/-- A reset cycle leaves no code in `fenc_err` either, so FENC's entry needs no look at `rst`. -/
theorem fencCycle_raised (l : CycleIn) (f : FencRegs) :
    (if l.rst then .none else (fencCycle l f).err) = (fencCycle l f).err := by
  split_ifs with hrst
  · rw [fencCycle_of_rst f hrst]
    rfl
  · rfl

theorem mem_cycleEntries_iff (l : CycleIn) (s : State) (r : Raised) : r ∈ cycleEntries l s ↔
    (fencCycle l s.fenc).err ≠ .none ∧ r = ⟨s.cycle + 1, .fenc, (fencCycle l s.fenc).err⟩ ∨
      (fdecCycle l s.fdec).2 ≠ .none ∧ r = ⟨s.cycle + 1, .fdec, (fdecCycle l s.fdec).2⟩ ∨
      ∃ z, zatCycle l = some z ∧ z.err ≠ .none ∧ r = ⟨s.cycle + 1, .zat, z.err⟩ := by
  rw [cycleEntries, fencCycle_raised, List.mem_append, List.mem_append, mem_raisedEntries, mem_raisedEntries]
  cases zatCycle l <;> simp [mem_raisedEntries]

end Sys2Proof.Machine

namespace Sys2Proof.Proofs

open Sys2Proof.Machine

/-- Settles O44: the entries are those of `mem_cycleEntries_iff`, and FDEC's is there where the cycle enters ERROR. -/
theorem raisedCodesAreLogged : Obligations.RaisedCodesAreLogged := by
  intro s l
  refine ⟨_, cycleEntries l s, feed_eq l s, rfl, fun r hr => ?entry, cycleEntries_unit_nodup l s, ?fenc, ?fdec, ?zat⟩
  case entry =>
    obtain ⟨hne, rfl⟩ | ⟨hne, rfl⟩ | ⟨z, hz, hne, rfl⟩ := (mem_cycleEntries_iff l s r).mp hr
    · exact ⟨rfl, hne, .inl ⟨rfl, rfl⟩⟩
    · exact ⟨rfl, hne, .inr (.inl ⟨rfl, ((quietOrFails_fdecCycle l s.fdec).raised_code hne).1⟩)⟩
    · exact ⟨rfl, hne, .inr (.inr ⟨rfl, z, hz, rfl⟩)⟩
  case fenc => simp [mem_cycleEntries_iff, or_and_right, exists_or]
  case fdec => simp [mem_cycleEntries_iff, or_and_right, exists_or, (quietOrFails_fdecCycle l s.fdec).raises_iff]
  case zat => simp [mem_cycleEntries_iff, or_and_right, exists_or]

end Sys2Proof.Proofs
end

section
/-! The invariant of the machine: each unit's operations keep the shape of its registers, whatever the unit receives, and
every entry of the log names its cycle and a code of its unit. -/

namespace Sys2Proof.Machine

/-! ## FENC: every operation leaves registers of the shape, whatever it finds -/

theorem fencShape_fencQuiet (p : FencPhase) (r : Bool) : fencShape (fencQuiet p r) := by simp [fencShape, fencQuiet]

theorem fencShape_fencFail (f : FencRegs) {e : ErrCode} (he : e = .encSeq ∨ e = .encChar) :
    fencShape (fencFail f e) := by
  simp [fencShape, fencFail, he]

theorem fencShape_fencOne (p : FencPhase) (b : Byte) : fencShape (fencOne p b) := by simp [fencShape, fencOne]

theorem fencShape_fencTwo (p : FencPhase) (b0 b1 : Byte) : fencShape (fencTwo p b0 b1) := by
  simp [fencShape, fencTwo]

theorem fencShape_fencAfter {i : Instr} (hunit : i.unit = .fenc) (f : FencRegs) : fencShape (fencAfter i f) := by
  cases i with
  | fencNop | fencAbort | fencRsvd6 | fencRsvd7 => exact fencShape_fencQuiet _ _
  | fencTgt c =>
    simp only [fencAfter, fencTgtRegs]
    split_ifs
    · exact fencShape_fencFail f (.inl rfl)
    · exact fencShape_fencOne _ _
    · exact fencShape_fencFail f (.inr rfl)
  | fencOpen =>
    simp only [fencAfter, fencOpenRegs]
    split_ifs
    · exact fencShape_fencOne _ _
    · exact fencShape_fencFail f (.inl rfl)
  | fencHex b =>
    simp only [fencAfter, fencHexRegs]
    split_ifs
    · exact fencShape_fencTwo _ _ _
    · exact fencShape_fencFail f (.inl rfl)
  | fencClose =>
    simp only [fencAfter, fencCloseRegs]
    split_ifs
    · exact fencShape_fencTwo _ _ _
    · exact fencShape_fencFail f (.inl rfl)
  | _ => cases hunit

theorem fencShape_reset : fencShape FencRegs.reset := fencShape_fencQuiet .idle false

theorem fencShape_fencCycle (l : CycleIn) (f : FencRegs) : fencShape (fencCycle l f) := by
  unfold fencCycle
  split_ifs
  · exact fencShape_reset
  · exact fencShape_fencAfter (decodeFenc_unit l.fenc) f

/-! ## FDEC: every operation keeps the shape -/

theorem fdecShape_fdecStartRegs : fdecShape fdecStartRegs := by simp [fdecShape, fdecStartRegs]

section
variable {d : FdecRegs} (h : fdecShape d)
include h

theorem fdecShape_fdecClear : fdecShape (fdecClear d) := by
  obtain ⟨herr, hcode, hscan, hdone, -, hprev1, hprev2, hfull⟩ := h
  exact ⟨herr, hcode, hscan, hdone, by simp, hprev1, hprev2, hfull⟩

theorem fdecShape_fdecFail {e : ErrCode} (he : e = .parse ∨ e = .hex) : fdecShape (fdecFail d e).1 := by
  obtain ⟨-, -, -, -, -, hprev1, hprev2, -⟩ := h
  have hne : e ≠ .none := by rintro rfl; simp at he
  exact ⟨by simp [fdecFail, hne], .inr he, by simp [fdecFail], by simp [fdecFail], by simp [fdecFail], hprev1, hprev2,
    by simp [fdecFail]⟩

theorem fdecShape_fdecChrScan (c : Byte) (hphase : d.phase = .scan) : fdecShape (fdecChrScan c d).1 := by
  obtain ⟨herr, hcode, hscan, -, -, hprev1, hprev2, -⟩ := id h
  have hnone : d.err = .none := not_not.mp (mt herr.mp (by simp [hphase]))
  unfold fdecChrScan
  split_ifs with hopen hlf
  · obtain ⟨hfull, -⟩ := (fdecHistHex_iff d).mp hopen.2
    simp [fdecShape, hnone, hfull]
  · exact fdecShape_fdecFail h (.inl rfl)
  · have hcount : histCount d.nhist ≠ 0 ∧ (histCount d.nhist ≠ 2 → d.nhist = 0) := by
      generalize d.nhist = n
      revert n
      decide
    obtain ⟨hpos, hshort⟩ := hcount
    exact ⟨by simp [hnone, hphase], .inl hnone, fun _ => hscan hphase, by simp [hphase], by simp,
      fun h0 => absurd h0 hpos, fun h2 => hprev1 (hshort h2), fun hne => absurd hphase hne⟩

theorem fdecShape_fdecChrBody (c : Byte) (hphase : d.phase = .body) : fdecShape (fdecChrBody c d).1 := by
  obtain ⟨herr, -, -, -, -, -, -, hfull⟩ := id h
  have hnone : d.err = .none := not_not.mp (mt herr.mp (by simp [hphase]))
  have htwo : d.nhist = 2 := hfull (by simp [hphase]) (by simp [hphase])
  unfold fdecChrBody
  split_ifs with hclose hbroken hlf hbad hhex hnib
  · exact fdecShape_fdecFail h (.inr rfl)
  · have hwhole : d.bad = false ∧ d.nibv = false := by simpa using hbroken
    simp [fdecShape, hnone, htwo, hwhole]
  · exact fdecShape_fdecFail h (.inl rfl)
  · exact fdecShape_fdecClear h
  all_goals simp [fdecShape, hnone, htwo, hphase]

theorem fdecShape_fdecAfter (i : Instr) : fdecShape (fdecAfter i d).1 := by
  cases i with
  | fdecNop => exact fdecShape_fdecClear h
  | fdecStart => exact fdecShape_fdecStartRegs
  | fdecChr c =>
    simp only [fdecAfter]
    cases hphase : d.phase with
    | scan =>
      rw [fdecChrRegs_of_scan c hphase]
      exact fdecShape_fdecChrScan h c hphase
    | body =>
      rw [fdecChrRegs_of_body c hphase]
      exact fdecShape_fdecChrBody h c hphase
    | done =>
      rw [fdecChrRegs_of_ended c (.inl hphase)]
      exact fdecShape_fdecClear h
    | error =>
      rw [fdecChrRegs_of_ended c (.inr hphase)]
      exact fdecShape_fdecClear h
  | fdecRsvd3 => exact fdecShape_fdecClear h
  | _ => exact h

theorem fdecShape_fdecCycle (l : CycleIn) : fdecShape (fdecCycle l d).1 := by
  unfold fdecCycle
  split_ifs
  · exact fdecShape_fdecStartRegs
  · exact fdecShape_fdecAfter h _

end

/-! ## ZAT: a result is an address without a code, or a code of ZAT with address 0 -/

theorem zatCalc_code_and_addr (zone slot : Byte) (offset : Word16) :
    ((zatCalc zone slot offset).err = .none ∨ (zatCalc zone slot offset).err.unit = some .zat) ∧
      ((zatCalc zone slot offset).err ≠ .none → (zatCalc zone slot offset).addr = 0x0000) := by
  unfold zatCalc
  dsimp only
  split_ifs <;> simp [zatFail, ErrCode.unit]

theorem zatCycle_code_and_addr {l : CycleIn} {z : ZatOut} (hz : zatCycle l = some z) :
    (z.err = .none ∨ z.err.unit = some .zat) ∧ (z.err ≠ .none → z.addr = 0x0000) := by
  obtain ⟨v, -, rfl⟩ := Option.map_eq_some_iff.mp hz
  exact zatCalc_code_and_addr _ _ _

/-! ## The log -/

theorem cycleEntries_wf {l : CycleIn} {s : State} {r : Raised} (hr : r ∈ cycleEntries l s) :
    r.cycle = s.cycle + 1 ∧ r.code.unit = some r.unit := by
  obtain ⟨hne, rfl⟩ | ⟨hne, rfl⟩ | ⟨z, hz, hne, rfl⟩ := (mem_cycleEntries_iff l s r).mp hr
  · obtain ⟨-, -, -, -, -, hcode⟩ := fencShape_fencCycle l s.fenc
    obtain hseq | hchar := hcode.resolve_left hne
    · exact ⟨rfl, by rw [hseq]; rfl⟩
    · exact ⟨rfl, by rw [hchar]; rfl⟩
  · exact ⟨rfl, ((quietOrFails_fdecCycle l s.fdec).raised_code hne).2⟩
  · exact ⟨rfl, (zatCycle_code_and_addr hz).1.resolve_left hne⟩

theorem machineInv_reset : machineInv State.reset :=
  ⟨fencShape_reset, fdecShape_fdecStartRegs, nofun, nofun⟩

theorem machineInv_step {s t : State} (h : machineInv s) (hstep : step s = .next t) : machineInv t := by
  obtain ⟨-, hfdec, -, hlog⟩ := h
  rw [step_eq, runLine_eq] at hstep
  obtain rfl := Host.Outcome.next.inj hstep
  refine ⟨fencShape_fencCycle _ _, fdecShape_fdecCycle hfdec _, fun z hz => zatCycle_code_and_addr hz, fun r hr => ?_⟩
  obtain hold | hnew := List.mem_append.mp hr
  · obtain ⟨hpos, hpast, hunit⟩ := hlog r hold
    exact ⟨hpos, Nat.le_succ_of_le hpast, hunit⟩
  · obtain ⟨hcycle, hunit⟩ := cycleEntries_wf hnew
    exact ⟨by omega, hcycle.le, hunit⟩

end Sys2Proof.Machine

namespace Sys2Proof.Proofs

open Sys2Proof.Machine

/-- Settles O49: the reset registers are an ABORT's and START's, and there is no sample and no entry to speak of. -/
theorem invariantHoldsAtReset : Obligations.InvariantHoldsAtReset := machineInv_reset

/-- Settles O50: one shape lemma for each unit's cycle, and `cycleEntries_wf` for what the cycle adds to the log. -/
theorem everyStepKeepsTheInvariant : Obligations.EveryStepKeepsTheInvariant := fun _ _ => machineInv_step

/-- Settles O51: the invariant names the codes of FENC and FDEC; those of ZAT are the three of its unit. -/
theorem errorOutputsCarryTheirCodes : Obligations.ErrorOutputsCarryTheirCodes := by
  rintro s ⟨⟨-, -, -, -, -, hfenc⟩, ⟨-, hfdec, -⟩, hzat, -⟩
  refine ⟨?fenc, ?fdec, fun e he => ?zat⟩
  case fenc => exact hfenc.imp (congrArg ErrCode.code) (.imp (congrArg ErrCode.code) (congrArg ErrCode.code))
  case fdec => exact hfdec.imp (congrArg ErrCode.code) (.imp (congrArg ErrCode.code) (congrArg ErrCode.code))
  case zat =>
    rw [outputs_atErr] at he
    obtain ⟨z, hz, rfl⟩ := Option.map_eq_some_iff.mp he
    obtain ⟨hcode, -⟩ := hzat z hz
    rw [ErrCode.unit_eq_zat_iff] at hcode
    exact hcode.imp (congrArg ErrCode.code)
      (.imp (congrArg ErrCode.code) (.imp (congrArg ErrCode.code) (congrArg ErrCode.code)))

end Sys2Proof.Proofs
end

section
/-! A unit the host leaves idle performs NOP (30_encoding.md R55), which raises nothing: so a cycle in which all units
are idle clears the pulses, and one operation's vector presented alone runs that operation. -/

namespace Sys2Proof.Machine

section
variable {l : CycleIn}

theorem crcCycle_of_idle (hrst : l.rst = false) (hidle : l.crc = 0) (base : CrcBase) (c : CrcRegs) :
    crcCycle l base c = { c with rsvd := false } := by
  rw [crcCycle, hrst, hidle]
  rfl

theorem fencCycle_of_idle (hrst : l.rst = false) (hidle : l.fenc = 0) (f : FencRegs) :
    fencCycle l f = fencQuiet f.phase false := by
  rw [fencCycle, hrst, hidle]
  rfl

theorem fdecCycle_of_idle (hrst : l.rst = false) (hidle : l.fdec = 0) (d : FdecRegs) :
    fdecCycle l d = (fdecClear d, .none) := by
  rw [fdecCycle, hrst, hidle]
  rfl

end

theorem cycleEntries_idleLine (s : State) : cycleEntries idleLine s = [] := by
  rw [cycleEntries, fencCycle_raised, fencCycle_of_idle rfl rfl, fdecCycle_of_idle rfl rfl]
  rfl

/-- Presented alone, a vector leaves the log entry of the operation it decodes to and no other. -/
theorem cycleEntries_drive_idleLine (w : PortWord) (s : State) :
    cycleEntries (drive w idleLine) s = raisedEntries s.cycle w.unit (raisedBy (decode w) s) := by
  rw [cycleEntries, fencCycle_raised]
  cases w with
  | crc v =>
    have hraised : raisedBy (decode (.crc v)) s = .none := raisedBy_crc _ (decodeCrc_unit v) s
    rw [fencCycle_of_idle rfl rfl, fdecCycle_of_idle rfl rfl, hraised]
    rfl
  | fenc v =>
    have hraised : raisedBy (decode (.fenc v)) s = (fencCycle (drive (.fenc v) idleLine) s.fenc).err :=
      raisedBy_fenc _ (decodeFenc_unit v) s
    rw [fdecCycle_of_idle rfl rfl, hraised]
    exact List.append_nil _
  | fdec v =>
    have hraised : raisedBy (decode (.fdec v)) s = (fdecCycle (drive (.fdec v) idleLine) s.fdec).2 :=
      raisedBy_fdec _ (decodeFdec_unit v) s
    rw [fencCycle_of_idle rfl rfl, hraised]
    exact List.append_nil _
  | zat v =>
    rw [fencCycle_of_idle rfl rfl, fdecCycle_of_idle rfl rfl]
    rfl

/-- Presented alone, a vector runs the operation it decodes to. -/
theorem feed_drive_idleLine (w : PortWord) (s : State) :
    ∃ t u, feed (drive w idleLine) s = .next t ∧ exec (decode w) s = .next u ∧
      t.log = u.log ∧ (w.unit = .crc → t.crc = u.crc) ∧ (w.unit = .fenc → t.fenc = u.fenc) ∧
      (w.unit = .fdec → t.fdec = u.fdec) ∧ (w.unit = .zat → t.zat = u.zat) := by
  have hentries := cycleEntries_drive_idleLine w s
  rw [← decode_unit w] at hentries
  refine ⟨_, _, feed_eq _ s, exec_eq _ s, congrArg (s.log ++ ·) hentries, ?_⟩
  cases w with
  | crc v => exact ⟨fun _ => rfl, nofun, nofun, nofun⟩
  | fenc v => exact ⟨nofun, fun _ => rfl, nofun, nofun⟩
  | fdec v => exact ⟨nofun, nofun, fun _ => rfl, nofun⟩
  | zat v => exact ⟨nofun, nofun, nofun, fun _ => rfl⟩

end Sys2Proof.Machine

namespace Sys2Proof.Proofs

open Sys2Proof.Machine

/-- Settles O39: `feed_drive_idleLine` at the operation's vector, which decodes back to the operation. -/
theorem presentedOperationRuns : Obligations.PresentedOperationRuns := by
  intro i s
  have hrun := feed_drive_idleLine (encode i) s
  rwa [decode_encode, encode_unit] at hrun

/-- Settles O46: each sequential unit's cycle is its NOP, and none of them logs a code. -/
theorem idleCycleClearsThePulses : Obligations.IdleCycleClearsThePulses := by
  intro s
  rw [feed_eq, crcCycle_of_idle rfl rfl, fencCycle_of_idle rfl rfl, fdecCycle_of_idle rfl rfl, cycleEntries_idleLine,
    List.append_nil]
  rfl

end Sys2Proof.Proofs
end

section
/-! The units are separate (00_scope.md section 1, 20_memory.md section 5): an operation touches its own unit's registers
and looks at no other's. -/

namespace Sys2Proof.Machine

/-! ## Operations of different units -/

/-- Two operations of which at least one leaves a unit alone act on it in either order. -/
theorem after_comm {α : Type} {u : UnitId} {after : Instr → α → α} (hother : ∀ i, i.unit ≠ u → ∀ x, after i x = x)
    {i j : Instr} (hne : i.unit ≠ j.unit) (x : α) : after j (after i x) = after i (after j x) := by
  by_cases hi : i.unit = u
  · have hj : j.unit ≠ u := fun hj => hne (hi.trans hj.symm)
    rw [hother j hj, hother j hj]
  · rw [hother i hi, hother i hi]

/-- The code an operation raises is read off its own unit's registers. -/
theorem raisedBy_congr {i : Instr} {s t : State} (hfenc : i.unit = .fenc → t.fenc = s.fenc)
    (hfdec : i.unit = .fdec → t.fdec = s.fdec) : raisedBy i t = raisedBy i s := by
  cases hunit : i.unit with
  | crc => rw [raisedBy_crc i hunit, raisedBy_crc i hunit]
  | fenc => rw [raisedBy_fenc i hunit, raisedBy_fenc i hunit, hfenc hunit]
  | fdec => rw [raisedBy_fdec i hunit, raisedBy_fdec i hunit, hfdec hunit]
  | zat =>
    cases i with
    | zat zone slot offset => rfl
    | _ => cases hunit

/-- An operation after one of another unit raises what it raises before it. -/
theorem raisedBy_after_other {i j : Instr} (hne : i.unit ≠ j.unit) {s t : State} (h : exec i s = .next t) :
    raisedBy j t = raisedBy j s := by
  rw [exec_eq] at h
  obtain rfl := Host.Outcome.next.inj h
  exact raisedBy_congr (fun hj => fencAfter_other i (hj ▸ hne) s.fenc)
    (fun hj => congrArg Prod.fst (fdecAfter_other i (hj ▸ hne) s.fdec))

end Sys2Proof.Machine

namespace Sys2Proof.Proofs

open Sys2Proof.Machine

/-- Settles O40: `exec_eq` names all that an operation writes, and each unit's part leaves the others' operations out. -/
theorem operationTouchesOnlyItsUnit : Obligations.OperationTouchesOnlyItsUnit := by
  intro i s
  refine ⟨_, exec_eq i s, fun h => crcAfter_other i h _ _, fun h => fencAfter_other i h _,
    fun h => congrArg Prod.fst (fdecAfter_other i h _), fun h => zatAfter_other i h _, rfl, rfl, rfl, ?_⟩
  by_cases hraised : raisedBy i s = .none
  · exact .inl (by simp [hraised])
  · exact .inr ⟨raisedBy i s, hraised, by rw [raisedEntries_of_ne _ _ _ hraised]⟩

/-- Settles O41: on every unit's registers one of the two operations does nothing, and each raises the same code in
either order. -/
theorem operationsOfDifferentUnitsCommute : Obligations.OperationsOfDifferentUnitsCommute := by
  intro i j s hne
  have hraisedj := raisedBy_after_other hne (exec_eq i s)
  have hraisedi := raisedBy_after_other hne.symm (exec_eq j s)
  rw [exec_eq i s, exec_eq j s, andThen_next, andThen_next, exec_eq j, exec_eq i, hraisedi, hraisedj]
  refine ⟨_, _, rfl, rfl, ?registers, ?log⟩
  case registers =>
    have hcrc := after_comm (after := fun i => crcAfter i s.config.crcBase)
      (fun i hi => crcAfter_other i hi s.config.crcBase) hne s.crc
    have hfenc := after_comm fencAfter_other hne s.fenc
    have hfdec := after_comm (after := fun i d => (fdecAfter i d).1)
      (fun i hi d => congrArg Prod.fst (fdecAfter_other i hi d)) hne s.fdec
    have hzat := after_comm zatAfter_other hne s.zat
    simp only [hcrc, hfenc, hfdec, hzat]
  case log =>
    rw [List.append_assoc, List.append_assoc]
    exact List.perm_append_comm.append_left s.log

end Sys2Proof.Proofs
end

section
/-! The step as a whole: what it does to the model's own fields, its parts in order, and what each unit's part of it
depends on. -/

namespace Sys2Proof.Machine

theorem andThen_assoc (o : Result) (f g : State → Result) :
    andThen (andThen o f) g = andThen o fun s => andThen (f s) g := by
  cases o <;> rfl

section
variable {k l : CycleIn} (hrst : k.rst = l.rst)
include hrst

theorem crcCycle_congr (hcmd : k.crc = l.crc) (base : CrcBase) (c : CrcRegs) : crcCycle k base c = crcCycle l base c := by
  rw [crcCycle, crcCycle, hrst, hcmd]

theorem fencCycle_congr (hcmd : k.fenc = l.fenc) (f : FencRegs) : fencCycle k f = fencCycle l f := by
  rw [fencCycle, fencCycle, hrst, hcmd]

theorem fdecCycle_congr (hcmd : k.fdec = l.fdec) (d : FdecRegs) : fdecCycle k d = fdecCycle l d := by
  rw [fdecCycle, fdecCycle, hrst, hcmd]

end

end Sys2Proof.Machine

namespace Sys2Proof.Proofs

open Sys2Proof.Machine

/-- Settles O38: the operations of the line one after another, the sequencing associated to the right. -/
theorem stepRunsTheDecodedOperations : Obligations.StepRunsTheDecodedOperations := by
  intro s hrst
  have hbegin : beginCycle (nextLine s) s = { s with lines := s.lines.tail, zat := none } := by simp [beginCycle, hrst]
  rw [step_eq, runLine, lineOps, hbegin, if_neg (by simp [hrst])]
  simp only [List.cons_append, List.nil_append, runOps_cons, andThen_assoc]
  cases (nextLine s).zat with
  | none => rfl
  | some v => simp only [runOps_cons, andThen_assoc]; rfl

/-- Settles O42: `runLine_eq` at the next line. -/
theorem everyStepCompletes : Obligations.EveryStepCompletes := fun s =>
  ⟨_, runLine_eq (nextLine s) s, rfl, rfl, rfl⟩

/-- Settles O43: `feed_eq` gives each unit's registers from its own registers, its own vector and `rst`. -/
theorem unitsAreIsolated : Obligations.UnitsAreIsolated := by
  intro s u k l
  refine ⟨_, _, feed_eq k s, feed_eq l u, fun hrst hconfig hregs hcmd => ?crc, fun hrst hregs hcmd => ?fenc,
    fun hrst hregs hcmd => ?fdec, zatCycle_congr⟩
  case crc => simp only [hconfig, hregs, crcCycle_congr hrst hcmd]
  case fenc => simp only [hregs, fencCycle_congr hrst hcmd]
  case fdec => simp only [hregs, fdecCycle_congr hrst hcmd]

/-- Settles O47: the operations raise no code, and each writes constants or keeps what it reads. -/
theorem idempotentOperations : Obligations.IdempotentOperations := by
  unfold Obligations.IdempotentOperations
  simp only [List.forall_mem_cons]
  refine ⟨fun s => ?crcNop, fun s => ?fencNop, fun s => ?fdecNop, fun s => ?crcInit, fun s => ?fencAbort,
    fun s => ?fdecStart, nofun⟩
  case crcNop => exact ⟨_, exec_crc .crcNop rfl s, exec_crc .crcNop rfl _⟩
  case crcInit => exact ⟨_, exec_crc .crcInit rfl s, exec_crc .crcInit rfl _⟩
  case fencNop | fencAbort => exact ⟨_, exec_fenc_of_err_none rfl rfl rfl, exec_fenc_of_err_none rfl rfl rfl⟩
  case fdecNop | fdecStart => exact ⟨_, exec_fdec_of_not_raised rfl rfl, exec_fdec_of_not_raised rfl rfl⟩

end Sys2Proof.Proofs
end

section
/-! A program loaded as the pending lines (log 4): a step runs its first line and leaves the others pending. -/

namespace Sys2Proof.Machine

theorem step_loadLines {l : CycleIn} {s t : State} (ls : List CycleIn) (h : feed l s = .next t) :
    step (loadLines (l :: ls) s) = .next (loadLines ls t) := by
  have hload : step (loadLines (l :: ls) s) = feed l (loadLines ls s) := rfl
  rw [feed_eq] at h
  obtain rfl := Host.Outcome.next.inj h
  rw [hload, feed_eq]
  rfl

end Sys2Proof.Machine

namespace Sys2Proof.Proofs

open Sys2Proof.Machine

/-- Settles O48, by induction on the lines: `step_loadLines` for the first, and the rest from the state it leaves. -/
theorem loadedProgramRunsInOrder : Obligations.LoadedProgramRunsInOrder := by
  intro ls
  induction ls with
  | nil => exact fun s => ⟨s, rfl, rfl, rfl, rfl⟩
  | cons l ls ih =>
    intro s
    have hfeed := feed_eq l s
    obtain ⟨u, hstep, hrun, hcycle, hlines⟩ := ih _
    refine ⟨u, ?_, (feedAll_cons_of_feed ls hfeed).trans hrun, hcycle.trans (Nat.succ_add_eq_add_succ _ _), hlines⟩
    rw [List.length_cons, stepN, step_loadLines ls hfeed, andThen_next, hstep]

end Sys2Proof.Proofs
end
